-- ==== Sys2Proof/Word.lean ====
section
/-! DEFINITION. The widths the spec names in its notation section (00_scope.md section 6): a byte, a half and a word24. -/

namespace Sys2Proof

/-- "A *byte* is 8 bits, unsigned" (00_scope.md section 6). -/
abbrev Byte := BitVec 8

/-- "A *half* is 16 bits, unsigned"; every register is a half unless its rule says otherwise (R10). -/
abbrev Half := BitVec 16

/-- "A *word24* is 24 bits": the command word of R60. -/
abbrev Word24 := BitVec 24

end Sys2Proof
end

