-- ==== Sys2Proof/Syntax.lean ====
section
/-! DEFINITION. The operations of the block as data: the 20 commands of R63 and the 2 events of R66, the three operand
formats of R61, the three command errors of R170, and the words the three input ports carry. -/

namespace Sys2Proof

/-- One constructor per row of spec/opcode_table.json (R63, R66); an operand has the width its format gives it (R61), so
no operand can be out of range. -/
inductive Instr where
  /-- `NOP` (R160). -/
  | nop
  /-- `CRC.INIT` (R90). -/
  | crcInit
  /-- `CRC.UPD b` (R91). -/
  | crcUpd (b : Byte)
  /-- `CRC.RDLO` (R92). -/
  | crcRdlo
  /-- `CRC.RDHI` (R93). -/
  | crcRdhi
  /-- `CRC.RD` (R94). -/
  | crcRd
  /-- `VAL.RUN` (R110). -/
  | valRun
  /-- `VAL.RDCRC` (R111). -/
  | valRdcrc
  /-- `ACC.SETEXP h` (R122). -/
  | accSetexp (h : Half)
  /-- `ACC.SETTMO h` (R123). -/
  | accSettmo (h : Half)
  /-- `ACC.START` (R124). -/
  | accStart
  /-- `ACC.ABORT` (R125). -/
  | accAbort
  /-- `ACC.CLR` (R126). -/
  | accClr
  /-- `ACC.RDCNT` (R127). -/
  | accRdcnt
  /-- `ACC.RDBUF h` (R128). -/
  | accRdbuf (h : Half)
  /-- `ACC.RDSTAT` (R129). -/
  | accRdstat
  /-- `ACC.RDEXP` (R130). -/
  | accRdexp
  /-- `ACC.RDTMO` (R131). -/
  | accRdtmo
  /-- `ACC.RDTMR` (R132). -/
  | accRdtmr
  /-- `ERR.CLR` (R161). -/
  | errClr
  /-- The event `RX.BYTE b` (R133). -/
  | rxByte (b : Byte)
  /-- The event `TICK` (R134). -/
  | tick
  deriving DecidableEq, Repr

/-- How a command uses its 16-bit operand field (R61): not at all, as a byte, as a half. -/
inductive Format where
  | n
  | b
  | h
  deriving DecidableEq, Repr

/-- The three command-error causes (R170). `LASTERR` = `NONE` is the absence of one. -/
inductive CmdError where
  /-- Code 1: the opcode is not one of the 20 of R63. -/
  | illegalOpcode
  /-- Code 2: the opcode is known and a must-be-zero bit of its format is 1. -/
  | reservedOperand
  /-- Code 3: opcode and operand are legal and `ASTATE` does not meet the command's precondition. -/
  | badState
  deriving DecidableEq, Repr

/-- What one of the three input ports carries in a cycle (R60, R66, R70). -/
inductive PortWord where
  /-- A command word presented with `cmd_valid` = 1 and accepted. -/
  | cmd (w : Word24)
  /-- The nine bits `rx_valid, rx_data[7:0]`. -/
  | rx (v : BitVec 9)
  /-- The one bit `tick`. -/
  | tick (v : BitVec 1)
  deriving DecidableEq, Repr

/-- The mnemonic of R63 and R66, as spec/opcode_table.json spells it. -/
def Instr.mnemonic : Instr → String
  | .nop => "NOP"
  | .crcInit => "CRC.INIT"
  | .crcUpd _ => "CRC.UPD"
  | .crcRdlo => "CRC.RDLO"
  | .crcRdhi => "CRC.RDHI"
  | .crcRd => "CRC.RD"
  | .valRun => "VAL.RUN"
  | .valRdcrc => "VAL.RDCRC"
  | .accSetexp _ => "ACC.SETEXP"
  | .accSettmo _ => "ACC.SETTMO"
  | .accStart => "ACC.START"
  | .accAbort => "ACC.ABORT"
  | .accClr => "ACC.CLR"
  | .accRdcnt => "ACC.RDCNT"
  | .accRdbuf _ => "ACC.RDBUF"
  | .accRdstat => "ACC.RDSTAT"
  | .accRdexp => "ACC.RDEXP"
  | .accRdtmo => "ACC.RDTMO"
  | .accRdtmr => "ACC.RDTMR"
  | .errClr => "ERR.CLR"
  | .rxByte _ => "RX.BYTE"
  | .tick => "TICK"

end Sys2Proof
end

