-- ==== Sys2Proof/Machine/Operands.lean ====
section
/-! DEFINITION. The bit fields of the command word and of the event ports (R60, R61, R66), the byte halves of a half
(R43), and the one way a narrow value widens: with zeros (R61, R65). -/

namespace Sys2Proof.Machine

/-- `op = cmd[23:16]` (R60). -/
def opField (w : Word24) : Byte := w.extractLsb' 16 8

/-- `arg = cmd[15:0]` (R60). -/
def argField (w : Word24) : Half := w.extractLsb' 0 16

/-- The command word made of an opcode and an operand (R60). -/
def cmdWord (op : Byte) (arg : Half) : Word24 := op.setWidth 24 <<< 16 ||| arg.setWidth 24

/-- `v[7:0]`: the byte operand of format `B` (R61), and the byte of a CRC that goes on the wire first (R43). -/
def loByte (v : Half) : Byte := v.extractLsb' 0 8

/-- `v[15:8]`: the must-be-zero bits of format `B` (R61), and the byte of a CRC that goes on the wire second (R43). -/
def hiByte (v : Half) : Byte := v.extractLsb' 8 8

/-- `zext_16` of a byte (00_scope.md section 6). -/
def zextByte (b : Byte) : Half := b.setWidth 16

/-- `zext_16` of one bit (R110: `rsp <- zext_16(CRCOK)`). -/
def zextBit (b : Bool) : Half := if b then 1 else 0

/-- Is a must-be-zero bit of the format 1? (R61, third column of its table.) -/
def reservedBitsSet : Format → Half → Bool
  | .n, arg => arg != 0
  | .b, arg => hiByte arg != 0
  | .h, _ => false

/-- `rx_valid` of the nine bits `rx_valid, rx_data` (R66). -/
def rxValid (v : BitVec 9) : Bool := v.getLsbD 8

/-- `rx_data[7:0]` (R66). -/
def rxData (v : BitVec 9) : Byte := v.extractLsb' 0 8

/-- The nine bits of a cycle that carries the byte `b` (R66: `1bbbbbbbb`). -/
def rxWord (b : Byte) : BitVec 9 := 0x100 ||| b.setWidth 9

end Sys2Proof.Machine
end

