-- ==== Sys2Proof/Config.lean ====
section
/-! DEFINITION. The implementation parameters of R5: the constants the spec fixes, and the record of the parameters a
model takes as arguments (`TIMEOUT_RESTART` is OPEN; `BUF_SIZE` is decided at 256 and may be generalised to 2..65535, D9).
`TICK_PERIOD`, `UPD_LATENCY` and `VAL_LATENCY` have no field: R5 says that no rule depends on them. -/

namespace Sys2Proof

/-- `CRC_POLY`, fixed by R5 and R80. -/
abbrev Config.crcPoly : Half := 0xA001

/-- `CRC_INIT`, fixed by R5 and R82. -/
abbrev Config.crcInit : Half := 0xFFFF

/-- `DEFAULT_TIMEOUT_TICKS`, decided at 1000 (R5, R15, decision D11). -/
abbrev Config.defaultTimeoutTicks : Half := 1000

/-- What one block of the family is built with and never changes (R5). The step function has no argument for it, so the
machine's state carries it (log entry 2): a statement about every state is a statement about every configuration. -/
structure Config where
  /-- `BUF_SIZE`: bytes of accumulation buffer. -/
  bufSize : Nat
  /-- `TIMEOUT_RESTART`, OPEN (D12): does an accepted byte set `TIMER` back to 0? -/
  timeoutRestart : Bool
  deriving DecidableEq, Repr

/-- The values R5 decides or recommends: 256 bytes, one fixed deadline. DESIGN CHOICE (log entry 2) as the configuration
`State.reset` is given. -/
def Config.recommended : Config := ⟨256, false⟩

end Sys2Proof
end

