-- ==== Sys2Proof/WellFormed.lean ====
section
/-! DEFINITION. What has to hold of the terms of the model: the range of `BUF_SIZE` (R5), the strobe bit of a word on an
event port (R66). An instruction needs no check: the types of its operands are the widths of R61. -/

namespace Sys2Proof

/-- "2 ≤ `BUF_SIZE` ≤ 65535" (R5). -/
def Config.wf (c : Config) : Bool := decide (2 ≤ c.bufSize) && decide (c.bufSize ≤ 65535)

/-- Every term of `Instr` is well formed: format `B` holds 8 bits, format `H` holds 16, "any value" (R61, R122, R123,
R128), and all 256 values of `rx_data` are legal (R66). -/
def Instr.wf : Instr → Bool
  | .nop => true
  | .crcInit => true
  | .crcUpd _ => true
  | .crcRdlo => true
  | .crcRdhi => true
  | .crcRd => true
  | .valRun => true
  | .valRdcrc => true
  | .accSetexp _ => true
  | .accSettmo _ => true
  | .accStart => true
  | .accAbort => true
  | .accClr => true
  | .accRdcnt => true
  | .accRdbuf _ => true
  | .accRdstat => true
  | .accRdexp => true
  | .accRdtmo => true
  | .accRdtmr => true
  | .errClr => true
  | .rxByte _ => true
  | .tick => true

/-- A word on an event port is an event only in a cycle whose strobe bit is 1 (R66: `1bbbbbbbb`, `1`); every word on the
command port is a word to decode (R64). -/
def PortWord.wf : PortWord → Bool
  | .cmd _ => true
  | .rx v => v.getLsbD 8
  | .tick v => v.getLsbD 0

end Sys2Proof
end

