-- ==== Sys2Proof/Decode.lean ====
section
/-! DEFINITION. The decoder, total on every word of the three ports and rejecting by name (R60 to R66), the encoder written
from the same opcode map, and R63's `match`/`mask` table beside them. -/

namespace Sys2Proof

open Sys2Proof.Machine

/-- One row of the opcode map as the decoder uses it: the format says which operand bits must be zero, `make` reads the
operand as the format says (R61, R63). -/
structure OpRow where
  format : Format
  make : Half → Instr

/-- The opcode map of R63: step (1) of R62. -/
def opcodeRow (op : Byte) : Option OpRow :=
  match op.toNat with
  | 0x00 => some ⟨.n, fun _ => .nop⟩
  | 0x01 => some ⟨.n, fun _ => .crcInit⟩
  | 0x02 => some ⟨.b, fun arg => .crcUpd (loByte arg)⟩
  | 0x03 => some ⟨.n, fun _ => .crcRdlo⟩
  | 0x04 => some ⟨.n, fun _ => .crcRdhi⟩
  | 0x05 => some ⟨.n, fun _ => .crcRd⟩
  | 0x10 => some ⟨.n, fun _ => .valRun⟩
  | 0x11 => some ⟨.n, fun _ => .valRdcrc⟩
  | 0x20 => some ⟨.h, fun arg => .accSetexp arg⟩
  | 0x21 => some ⟨.h, fun arg => .accSettmo arg⟩
  | 0x22 => some ⟨.n, fun _ => .accStart⟩
  | 0x23 => some ⟨.n, fun _ => .accAbort⟩
  | 0x24 => some ⟨.n, fun _ => .accClr⟩
  | 0x25 => some ⟨.n, fun _ => .accRdcnt⟩
  | 0x26 => some ⟨.h, fun arg => .accRdbuf arg⟩
  | 0x27 => some ⟨.n, fun _ => .accRdstat⟩
  | 0x28 => some ⟨.n, fun _ => .accRdexp⟩
  | 0x29 => some ⟨.n, fun _ => .accRdtmo⟩
  | 0x2A => some ⟨.n, fun _ => .accRdtmr⟩
  | 0x30 => some ⟨.n, fun _ => .errClr⟩
  | _ => none

/-- Steps (1) and (2) of R62: the opcode is looked up, then the must-be-zero bits are checked; the first that fails
names the error. Step (3), the state precondition, is each command's own (R170). -/
def decodeCmd (w : Word24) : Except CmdError Instr :=
  match opcodeRow (opField w) with
  | none => .error .illegalOpcode
  | some row => if reservedBitsSet row.format (argField w) then .error .reservedOperand else .ok (row.make (argField w))

/-- The event on the receive port in this cycle, if there is one (R66). -/
def decodeRx (v : BitVec 9) : Option Instr := if rxValid v then some (.rxByte (rxData v)) else none

/-- The event on the tick port in this cycle, if there is one (R66). -/
def decodeTick (v : BitVec 1) : Option Instr := if v.getLsbD 0 then some .tick else none

/-- Why a port's word is no operation. -/
inductive Reject where
  /-- The command is refused with this code (R62 steps 1 and 2); the block goes on (R171). -/
  | command (e : CmdError)
  /-- The event port's strobe is 0: nothing arrived (R66). -/
  | noStrobe
  deriving DecidableEq, Repr

/-- The whole decoder: every word of every port is one operation or is rejected by name (R64). -/
def decode : PortWord → Except Reject Instr
  | .cmd w =>
    match decodeCmd w with
    | .ok i => .ok i
    | .error e => .error (.command e)
  | .rx v =>
    match decodeRx v with
    | some i => .ok i
    | none => .error .noStrobe
  | .tick v =>
    match decodeTick v with
    | some i => .ok i
    | none => .error .noStrobe

/-- The word of an operation on its port (R63, R66). -/
def encode : Instr → PortWord
  | .nop => .cmd (cmdWord 0x00 0)
  | .crcInit => .cmd (cmdWord 0x01 0)
  | .crcUpd b => .cmd (cmdWord 0x02 (zextByte b))
  | .crcRdlo => .cmd (cmdWord 0x03 0)
  | .crcRdhi => .cmd (cmdWord 0x04 0)
  | .crcRd => .cmd (cmdWord 0x05 0)
  | .valRun => .cmd (cmdWord 0x10 0)
  | .valRdcrc => .cmd (cmdWord 0x11 0)
  | .accSetexp h => .cmd (cmdWord 0x20 h)
  | .accSettmo h => .cmd (cmdWord 0x21 h)
  | .accStart => .cmd (cmdWord 0x22 0)
  | .accAbort => .cmd (cmdWord 0x23 0)
  | .accClr => .cmd (cmdWord 0x24 0)
  | .accRdcnt => .cmd (cmdWord 0x25 0)
  | .accRdbuf h => .cmd (cmdWord 0x26 h)
  | .accRdstat => .cmd (cmdWord 0x27 0)
  | .accRdexp => .cmd (cmdWord 0x28 0)
  | .accRdtmo => .cmd (cmdWord 0x29 0)
  | .accRdtmr => .cmd (cmdWord 0x2A 0)
  | .errClr => .cmd (cmdWord 0x30 0)
  | .rxByte b => .rx (rxWord b)
  | .tick => .tick 1#1

/-- A row of R63's table: "a word `w` selects the row when `w & mask == match`" (`pattern` is the table's `match`). -/
structure TableRow where
  mnemonic : String
  format : Format
  pattern : Word24
  mask : Word24
  deriving DecidableEq, Repr

/-- Does the word select the row? (R63.) -/
def TableRow.selects (r : TableRow) (w : Word24) : Bool := w &&& r.mask == r.pattern

/-- R63's 20 rows, transcribed as they stand; the decoder above does not use them, and the two are proved to agree. -/
def commandTable : List TableRow :=
  [ ⟨"NOP", .n, 0x000000, 0xFFFFFF⟩, ⟨"CRC.INIT", .n, 0x010000, 0xFFFFFF⟩, ⟨"CRC.UPD", .b, 0x020000, 0xFFFF00⟩,
    ⟨"CRC.RDLO", .n, 0x030000, 0xFFFFFF⟩, ⟨"CRC.RDHI", .n, 0x040000, 0xFFFFFF⟩, ⟨"CRC.RD", .n, 0x050000, 0xFFFFFF⟩,
    ⟨"VAL.RUN", .n, 0x100000, 0xFFFFFF⟩, ⟨"VAL.RDCRC", .n, 0x110000, 0xFFFFFF⟩ ] ++
  [ ⟨"ACC.SETEXP", .h, 0x200000, 0xFF0000⟩, ⟨"ACC.SETTMO", .h, 0x210000, 0xFF0000⟩, ⟨"ACC.START", .n, 0x220000, 0xFFFFFF⟩,
    ⟨"ACC.ABORT", .n, 0x230000, 0xFFFFFF⟩, ⟨"ACC.CLR", .n, 0x240000, 0xFFFFFF⟩, ⟨"ACC.RDCNT", .n, 0x250000, 0xFFFFFF⟩,
    ⟨"ACC.RDBUF", .h, 0x260000, 0xFF0000⟩, ⟨"ACC.RDSTAT", .n, 0x270000, 0xFFFFFF⟩, ⟨"ACC.RDEXP", .n, 0x280000, 0xFFFFFF⟩,
    ⟨"ACC.RDTMO", .n, 0x290000, 0xFFFFFF⟩, ⟨"ACC.RDTMR", .n, 0x2A0000, 0xFFFFFF⟩, ⟨"ERR.CLR", .n, 0x300000, 0xFFFFFF⟩ ]

/-- The port and the port's word of a row of spec/opcode_table.json, from the row's bits: a command row has 24 bits (`cmd`),
the row of `RX.BYTE` has 9 (two bytes), the row of `TICK` has 1 (one byte). The bits that only fill an event row up to
whole bytes are no bits of its port. -/
def portWordOf (nbits w : Nat) : Option PortWord :=
  match nbits with
  | 24 => some (.cmd (BitVec.ofNat 24 w))
  | 16 => some (.rx (BitVec.ofNat 9 w))
  | 9 => some (.rx (BitVec.ofNat 9 w))
  | 8 => some (.tick (BitVec.ofNat 1 w))
  | 1 => some (.tick (BitVec.ofNat 1 w))
  | _ => none

/-- What the decoder reads from a row's bits. -/
def decodeTableWord (nbits w : Nat) : Option Instr :=
  match portWordOf nbits w with
  | none => none
  | some p =>
    match decode p with
    | .ok i => some i
    | .error _ => none

end Sys2Proof
end

