-- ==== Sys2Proof/Machine/Crc.lean ====
section
/-! DEFINITION. The CRC functions of 40_crc.md: one shift step, one byte, a sequence, the frame with its CRC, and the test
of a frame (R80 to R85), with the table form of R83 as a second definition of the byte step, the residue form of R86 as a
second definition of the test, and the change to a frame that R87 speaks of. -/

namespace Sys2Proof.Machine

/-- One shift step (R80). -/
def crcBit (c : Half) : Half := if c.getLsbD 0 then (c >>> 1) ^^^ Config.crcPoly else c >>> 1

/-- `n` shift steps. -/
def crcShifts : Nat → Half → Half
  | 0, c => c
  | n + 1, c => crcShifts n (crcBit c)

/-- The register after one more byte: it enters the low eight bits, then eight shift steps (R81). -/
def crcStep (c : Half) (b : Byte) : Half := crcShifts 8 (c ^^^ zextByte b)

/-- The register after the bytes of a sequence, first to last, from a given start (R82's loop, R88's streaming). -/
def crcFrom : Half → List Byte → Half
  | c, [] => c
  | c, b :: s => crcFrom (crcStep c b) s

/-- The CRC of a sequence: the start value is `0xFFFF`, the register is the result as it stands (R82). -/
def crc16 (s : List Byte) : Half := crcFrom Config.crcInit s

/-- The two bytes of a CRC in wire order, low byte first (R43). -/
def crcBytes (c : Half) : List Byte := [loByte c, hiByte c]

/-- A body followed by its CRC (R84). -/
def appendCrc (s : List Byte) : List Byte := s ++ crcBytes (crc16 s)

/-- A frame less its last two bytes: the span the CRC is computed over (R85). -/
def frameBody (f : List Byte) : List Byte := f.take (f.length - 2)

/-- Both comparisons of R85: the low byte against the second-last byte, the high byte against the last. -/
def trailerMatches (c : Half) (f : List Byte) : Bool :=
  loByte c == f.getD (f.length - 2) 0 && hiByte c == f.getD (f.length - 1) 0

/-- Does the frame carry the right CRC? A frame of fewer than two bytes does not (R85, decision D18). -/
def validate (f : List Byte) : Bool := decide (2 ≤ f.length) && trailerMatches (crc16 (frameBody f)) f

/-- The residue form of the test, over the whole frame with its CRC bytes (R86 (b)): the host's through `VAL.STREAM`, and the
block's own form is `validate`. -/
def validateByResidue (f : List Byte) : Bool := decide (2 ≤ f.length) && crc16 f == 0

/-- The frame with an error pattern XORed into it from index `i` on (R87: `g[i] = f[i] ^ d`), its length kept. -/
def corruptAt : Nat → List Byte → List Byte → List Byte
  | _, [], f => f
  | _, _ :: _, [] => []
  | 0, d :: e, x :: f => (x ^^^ d) :: corruptAt 0 e f
  | i + 1, d :: e, x :: f => x :: corruptAt i (d :: e) f

/-- `TABLE[i]` of R83: eight shift steps from the value `i`. -/
def crcTable (i : Byte) : Half := crcShifts 8 (zextByte i)

/-- The table form of the byte step (R83). -/
def crcStepTable (c : Half) (b : Byte) : Half := (c >>> 8) ^^^ crcTable (loByte (c ^^^ zextByte b))

end Sys2Proof.Machine
end

