-- ==== Sys2Proof/Machine/State.lean ====
section
/-! DEFINITION. The architectural state of R10, field by field, with the three fields that are the model's own (the
configuration, the response port, the cycles still to come), the reasons a step can stop, and the state after reset. -/

namespace Sys2Proof.Machine

/-- `ASTATE` (R17): `IDLE`, `OPEN`, `DONE`. Code 3 "never occurs", and "a model may use a three-valued type". -/
inductive AState where
  | idle
  | opened
  | done
  deriving DecidableEq, Repr

/-- `REASON` (R18): why the last window closed. -/
inductive Reason where
  | none
  | quota
  | tmo
  | abort
  deriving DecidableEq, Repr

/-- One response on the command port (R65): `rsp_err` and `rsp[15:0]`. -/
structure Response where
  err : Bool
  data : Half
  deriving DecidableEq, Repr

/-- What the outside world presents to the block in one clock cycle (R7, R70). -/
structure Cycle where
  /-- `rst` at the clock edge (R200). -/
  rst : Bool
  /-- The command accepted in this cycle: `cmd_valid` = 1 and `cmd_ready` = 1 (R8). -/
  cmd : Option Word24
  /-- `rx_valid, rx_data[7:0]` (R66). -/
  rx : BitVec 9
  /-- `tick` (R66). -/
  tick : BitVec 1
  deriving DecidableEq, Repr

/-- A cycle in which nothing is presented. -/
abbrev Cycle.quiet : Cycle := ⟨false, none, 0, 0⟩

/-- The buffer `BUF` (R25) as the list of its cells that differ from what an unlisted cell reads as, indices rising. -/
abbrev Memory := List Host.Cell

/-- The architectural state of the block: R10's fields "and nothing else". What R29 names as no state has no field here: not
the parameters, not the ports, not a response, not the progress of a command. -/
structure Arch where
  /-- `CRC`, the generator's register (R11). -/
  crc : Half
  /-- `VCRC`, the validator's register (R12). -/
  vcrc : Half
  /-- `BUF[0..BUF_SIZE)` (R25). -/
  buf : Memory
  /-- `COUNT` (R13). -/
  count : Half
  /-- `EXPECTED`, the quota (R14). -/
  expected : Half
  /-- `TIMEOUT`, in ticks (R15). -/
  timeout : Half
  /-- `TIMER` (R16). -/
  timer : Half
  /-- `ASTATE` (R17). -/
  astate : AState
  /-- `REASON` (R18). -/
  reason : Reason
  /-- `OVF` (R19). -/
  ovf : Bool
  /-- `VDONE` (R20). -/
  vdone : Bool
  /-- `CRCOK` (R21). -/
  crcok : Bool
  /-- `SHORT` (R22). -/
  short : Bool
  /-- `CMDERR` (R23). -/
  cmderr : Bool
  /-- `LASTERR` (R24): `none` is `NONE`; codes 4 to 7 "never occur". -/
  lasterr : Option CmdError
  deriving DecidableEq, Repr

/-- The state of the model: the architectural state, and what the fixed interface, a step without arguments, makes it carry
besides (R29 items 1 to 3; log entries 1 to 3): the arguments of `blockStep` that are no state, and its output. -/
structure State extends Arch where
  /-- The model's own: the parameters the block is built with (R5). No step changes it (log entry 2). -/
  cfg : Config
  /-- The model's own: the response port after the last cycle; `none` is `rsp_valid` = 0 (R65, R70; log entry 3). -/
  rsp : Option Response
  /-- The model's own: the cycles the outside world has still to present, the next one first (R7; log entry 1). -/
  pending : List Cycle
  deriving DecidableEq, Repr

/-- Why a step stops. -/
inductive Fault where
  /-- Raised by `memRead` alone: a read of `BUF` at an index that does not exist (R40: indices are 0..`BUF_SIZE`-1). The
  spec reaches no such read, since `COUNT` ≤ `BUF_SIZE` (R28 (a)). SAFE: the model stops where the spec says nothing. -/
  | noSuchBufferIndex (i : Nat)
  deriving DecidableEq, Repr

/-- Why an operation is given no meaning. -/
inductive Refusal where
  /-- Raised by an arm of `exec` whose operation has no meaning yet; no arm does. SAFE. -/
  | notModelled (mnemonic : String)
  deriving DecidableEq, Repr

/-- The state after reset (R30): every value is R30's. `BUF` "unspecified; unobservable" is given no listed cell (R201;
log entry 4); the configuration is the one R5 decides and recommends (log entry 2); no response stands on the port and the
outside world has presented nothing. -/
def State.reset : State where
  crc := Config.crcInit
  vcrc := Config.crcInit
  buf := []
  count := 0
  expected := 0xFFFF
  timeout := Config.defaultTimeoutTicks
  timer := 0
  astate := .idle
  reason := .none
  ovf := false
  vdone := false
  crcok := false
  short := false
  cmderr := false
  lasterr := none
  cfg := Config.recommended
  rsp := none
  pending := []

end Sys2Proof.Machine
end

