-- ==== Sys2Proof/Machine/Flags.lean ====
section
/-! DEFINITION. The codes of the small fields, the status word made of them (R26), the two level outputs (R177), and the
flag a validation computes (R110). -/

namespace Sys2Proof.Machine

/-- `IDLE`=0, `OPEN`=1, `DONE`=2 (R17). -/
def astateCode : AState → BitVec 2
  | .idle => 0
  | .opened => 1
  | .done => 2

/-- `NONE`=0, `QUOTA`=1, `TMO`=2, `ABORT`=3 (R18). -/
def reasonCode : Reason → BitVec 2
  | .none => 0
  | .quota => 1
  | .tmo => 2
  | .abort => 3

/-- The code of a command error (R170). -/
def errorCode : CmdError → BitVec 3
  | .illegalOpcode => 1
  | .reservedOperand => 2
  | .badState => 3

/-- `LASTERR` as it reads: `NONE`=0, else the code (R24). -/
def lasterrCode : Option CmdError → BitVec 3
  | none => 0
  | some e => errorCode e

/-- A field of a half: its value, with its lowest bit at position `lo`. -/
def fieldAt (lo : Nat) {n : Nat} (v : BitVec n) : Half := v.setWidth 16 <<< lo

/-- `status_word()`, from the field at bit 0 up to the field at bits 11 to 9; bits 15 to 12 are 0 (R26). -/
def statusWord (s : State) : Half :=
  fieldAt 0 (astateCode s.astate) ||| fieldAt 2 (reasonCode s.reason) ||| fieldAt 4 (BitVec.ofBool s.ovf) |||
    fieldAt 5 (BitVec.ofBool s.vdone) ||| fieldAt 6 (BitVec.ofBool s.crcok) ||| fieldAt 7 (BitVec.ofBool s.short) |||
    fieldAt 8 (BitVec.ofBool s.cmderr) ||| fieldAt 9 (lasterrCode s.lasterr)

/-- The level output `done` (R177). -/
def doneOut (s : State) : Bool := s.astate == .done

/-- The level output `open` (R177). -/
def openOut (s : State) : Bool := s.astate == .opened

/-- The flag `CRCOK` a validation of at least two bytes computes: both CRC bytes match and no byte was lost (R110). -/
def crcOkFlag (c : Half) (frame : List Byte) (ovf : Bool) : Bool := trailerMatches c frame && !ovf

end Sys2Proof.Machine
end

