-- ==== Sys2Proof/Machine/Memory.lean ====
section
/-! DEFINITION. The buffer as plain data: what an unlisted index reads as, one byte read and written (R45), and the
canonical form every operation keeps. -/

namespace Sys2Proof.Machine

/-- What an index that nothing has written reads as. DESIGN CHOICE (log entry 4): R201 lets a model "initialise `BUF` to
all zeros", and R42's gate keeps the value from every observer. -/
def Memory.unlisted : Byte := 0x00

/-- `BUF[i]` (R45: one byte at a time). -/
def Memory.read : Memory → Nat → Byte
  | [], _ => Memory.unlisted
  | (a, b) :: m, i => if i = a then b else Memory.read m i

/-- The buffer with no cell listed at an index. -/
def Memory.erase : Memory → Nat → Memory
  | [], _ => []
  | (a, b) :: m, i => if i = a then Memory.erase m i else (a, b) :: Memory.erase m i

/-- A cell put before the first listed index above it. -/
def Memory.insert : Memory → Nat → Byte → Memory
  | [], i, v => [(i, v)]
  | (a, b) :: m, i, v => if i < a then (i, v) :: (a, b) :: m else (a, b) :: Memory.insert m i v

/-- `BUF[i] <- v`, keeping the canonical form: the value an unlisted index reads as is not listed. -/
def Memory.write (m : Memory) (i : Nat) (v : Byte) : Memory :=
  if v = Memory.unlisted then Memory.erase m i else Memory.insert (Memory.erase m i) i v

/-- Indices strictly rise, none below `lo`, and no listed byte is the unlisted one. -/
def Memory.wfFrom : Nat → Memory → Bool
  | _, [] => true
  | lo, (a, b) :: m => decide (lo ≤ a) && decide (b ≠ Memory.unlisted) && Memory.wfFrom (a + 1) m

/-- The canonical form: equal memories are equal lists. -/
def Memory.wf (m : Memory) : Bool := Memory.wfFrom 0 m

/-- Every listed index is below `n`: `BUF` has no cell at or above `BUF_SIZE` (R25, R40). -/
def Memory.below (n : Nat) : Memory → Bool
  | [] => true
  | (a, _) :: m => decide (a < n) && Memory.below n m

end Sys2Proof.Machine
end

