-- ==== Sys2Proof/Machine/Ops.lean ====
section
/-! DEFINITION. The operations the meanings share: the response of a command (R65), taking a command error and clearing its
record (R171, R174), buffer reads and the one write (R41, R42), opening, testing and closing the window (R121). -/

namespace Sys2Proof.Machine

/-- `rsp <- v`: the response of a command that succeeded (R65). -/
def respond (v : Half) (s : State) : State := { s with rsp := some ⟨false, v⟩ }

/-- `raise CmdError(code)`: error entry, "exactly this and nothing more" (R171). There is no saved state, no mode and no
handler; the block goes on. -/
def raiseCmdError (e : CmdError) (s : State) : State :=
  { s with cmderr := true, lasterr := some e, rsp := some ⟨true, (errorCode e).setWidth 16⟩ }

/-- What takes the place of a return from the error (R174): the record is cleared. -/
def clearCmdError (s : State) : State := { s with cmderr := false, lasterr := none }

/-- `MemRead(i, 1)`: an index outside 0..`BUF_SIZE`-1 does not exist (R40, R45). -/
def memRead (s : State) (i : Nat) : Except Fault Byte :=
  if i < s.cfg.bufSize then .ok (Memory.read s.buf i) else .error (.noSuchBufferIndex i)

/-- `len` bytes from index `start`, in index order (R110: `MemRead(i,1)` for each index). -/
def memReadSpan (s : State) (start : Nat) : Nat → Except Fault (List Byte)
  | 0 => .ok []
  | len + 1 =>
    match memRead s start with
    | .error f => .error f
    | .ok b =>
      match memReadSpan s (start + 1) len with
      | .error f => .error f
      | .ok bs => .ok (b :: bs)

/-- `buf_read(i)`: every read is gated by `COUNT`; at or above it the constant `0x00` answers (R42). -/
def bufRead (s : State) (i : Half) : Except Fault Byte :=
  if i < s.count then memRead s i.toNat else .ok 0x00

/-- The byte `b` is stored at index `COUNT` and counted, as one operation: the only write to `BUF` (R41). The caller has
tested `COUNT` < `BUF_SIZE`. -/
def storeByte (b : Byte) (s : State) : State :=
  { s with buf := Memory.write s.buf s.count.toNat b, count := s.count + 1 }

/-- The candidate frame `BUF[0..COUNT)` (R17), as the cells read. -/
def candidateFrame (s : State) : List Byte := (List.range s.count.toNat).map (Memory.read s.buf)

/-- What `ACC.START` and `ACC.CLR` clear (R124, R126). -/
def clearWindow (s : State) : State :=
  { s with count := 0, timer := 0, reason := .none, ovf := false, vdone := false, crcok := false, short := false }

/-- The window closes for a reason (R120). -/
def closeWindow (r : Reason) (s : State) : State := { s with astate := .done, reason := r }

/-- `acc_check()`: the quota is tested before the timeout, both unsigned, and only in `OPEN` (R121). -/
def accCheck (s : State) : State :=
  if s.astate = .opened then
    if s.expected ≤ s.count then closeWindow .quota s
    else if s.timeout ≤ s.timer then closeWindow .tmo s
    else s
  else s

end Sys2Proof.Machine
end

