-- ==== Sys2Proof/Machine/Accumulator.lean ====
section
/-! DEFINITION. The accumulator's commands (42_accumulator.md sections 3 to 5). -/

namespace Sys2Proof.Machine

/-- `ACC.SETEXP h` (R122): refused in `OPEN`. -/
def execAccSetexp (h : Half) (s : State) : Host.Outcome State Fault Refusal :=
  if s.astate = .opened then .next (raiseCmdError .badState s) else .next (respond 0 { s with expected := h })

/-- `ACC.SETTMO h` (R123): refused in `OPEN`. -/
def execAccSettmo (h : Half) (s : State) : Host.Outcome State Fault Refusal :=
  if s.astate = .opened then .next (raiseCmdError .badState s) else .next (respond 0 { s with timeout := h })

/-- `ACC.START` (R124): refused in `OPEN`; the window opens empty and may close at once. -/
def execAccStart (s : State) : Host.Outcome State Fault Refusal :=
  if s.astate = .opened then .next (raiseCmdError .badState s)
  else .next (respond 0 (accCheck { clearWindow s with astate := .opened }))

/-- `ACC.ABORT` (R125): never refused; outside `OPEN` it does nothing and succeeds. -/
def execAccAbort (s : State) : Host.Outcome State Fault Refusal :=
  .next (respond 0 (if s.astate = .opened then closeWindow .abort s else s))

/-- `ACC.CLR` (R126): refused in `OPEN`. -/
def execAccClr (s : State) : Host.Outcome State Fault Refusal :=
  if s.astate = .opened then .next (raiseCmdError .badState s)
  else .next (respond 0 { clearWindow s with astate := .idle })

/-- `ACC.RDCNT` (R127). -/
def execAccRdcnt (s : State) : Host.Outcome State Fault Refusal := .next (respond s.count s)

/-- `ACC.RDBUF h` (R128): an index at or above `COUNT` reads `0x0000` and is not an error. -/
def execAccRdbuf (h : Half) (s : State) : Host.Outcome State Fault Refusal :=
  match bufRead s h with
  | .error f => .fault f
  | .ok b => .next (respond (zextByte b) s)

/-- `ACC.RDSTAT` (R129). -/
def execAccRdstat (s : State) : Host.Outcome State Fault Refusal := .next (respond (statusWord s) s)

/-- `ACC.RDEXP` (R130). -/
def execAccRdexp (s : State) : Host.Outcome State Fault Refusal := .next (respond s.expected s)

/-- `ACC.RDTMO` (R131). -/
def execAccRdtmo (s : State) : Host.Outcome State Fault Refusal := .next (respond s.timeout s)

/-- `ACC.RDTMR` (R132). -/
def execAccRdtmr (s : State) : Host.Outcome State Fault Refusal := .next (respond s.timer s)

end Sys2Proof.Machine
end

