-- ==== Sys2Proof/Machine/Events.lean ====
section
/-! DEFINITION. The two events (42_accumulator.md section 6). Neither has a response, and neither can be refused (R66). -/

namespace Sys2Proof.Machine

/-- The byte is stored when the buffer has room, else dropped with `OVF` set (R133). -/
def takeByte (b : Byte) (s : State) : State :=
  if s.count.toNat < s.cfg.bufSize then storeByte b s else { s with ovf := true }

/-- With `TIMEOUT_RESTART`, a byte that arrived restarts the timer, a dropped byte too (R133 case (2)). -/
def restartTimer (s : State) : State := if s.cfg.timeoutRestart then { s with timer := 0 } else s

/-- `RX.BYTE b` (R133): outside a window the byte is lost without trace. -/
def execRxByte (b : Byte) (s : State) : Host.Outcome State Fault Refusal :=
  if s.astate = .opened then .next (accCheck (restartTimer (takeByte b s))) else .next s

/-- `TICK` (R134): outside a window nothing happens. -/
def execTick (s : State) : Host.Outcome State Fault Refusal :=
  if s.astate = .opened then .next (accCheck { s with timer := s.timer + 1 }) else .next s

end Sys2Proof.Machine
end

