-- ==== Sys2Proof/Machine/Generator.lean ====
section
/-! DEFINITION. The CRC generator's commands (40_crc.md section 5). -/

namespace Sys2Proof.Machine

/-- `CRC.INIT` (R90). -/
def execCrcInit (s : State) : Host.Outcome State Fault Refusal := .next (respond 0 { s with crc := Config.crcInit })

/-- `CRC.UPD b` (R91). -/
def execCrcUpd (b : Byte) (s : State) : Host.Outcome State Fault Refusal :=
  .next (respond 0 { s with crc := crcStep s.crc b })

/-- `CRC.RDLO` (R92). -/
def execCrcRdlo (s : State) : Host.Outcome State Fault Refusal := .next (respond (zextByte (loByte s.crc)) s)

/-- `CRC.RDHI` (R93). -/
def execCrcRdhi (s : State) : Host.Outcome State Fault Refusal := .next (respond (zextByte (hiByte s.crc)) s)

/-- `CRC.RD` (R94). -/
def execCrcRd (s : State) : Host.Outcome State Fault Refusal := .next (respond s.crc s)

end Sys2Proof.Machine
end

