-- ==== Sys2Proof/Machine/System.lean ====
section
/-! DEFINITION. The system commands (43_system.md). -/

namespace Sys2Proof.Machine

/-- `NOP` (R160). -/
def execNop (s : State) : Host.Outcome State Fault Refusal := .next (respond 0 s)

/-- `ERR.CLR` (R161). -/
def execErrClr (s : State) : Host.Outcome State Fault Refusal := .next (respond 0 (clearCmdError s))

end Sys2Proof.Machine
end

