-- ==== Sys2Proof/Machine/Validator.lean ====
section
/-! DEFINITION. The validator's commands (41_validator.md). -/

namespace Sys2Proof.Machine

/-- `VAL.RUN` on a frame of fewer than two bytes (R110, first branch). -/
def validateShort (s : State) : State :=
  { s with vcrc := Config.crcInit, crcok := false, short := true, vdone := true }

/-- `VAL.RUN` on the bytes of a frame of at least two (R110, second branch). -/
def validateFrame (frame : List Byte) (s : State) : State :=
  let c := crc16 (frameBody frame)
  { s with vcrc := c, crcok := crcOkFlag c frame s.ovf, short := false, vdone := true }

/-- `VAL.RUN` (R110): refused unless `ASTATE` = `DONE`; the response is the new `CRCOK`. -/
def execValRun (s : State) : Host.Outcome State Fault Refusal :=
  if s.astate = .done then
    if s.count < 2 then .next (respond (zextBit false) (validateShort s))
    else
      match memReadSpan s 0 s.count.toNat with
      | .error f => .fault f
      | .ok frame => .next (respond (zextBit (validateFrame frame s).crcok) (validateFrame frame s))
  else .next (raiseCmdError .badState s)

/-- `VAL.RDCRC` (R111). -/
def execValRdcrc (s : State) : Host.Outcome State Fault Refusal := .next (respond s.vcrc s)

end Sys2Proof.Machine
end

