-- ==== Sys2Proof/Machine/Dispatch.lean ====
section
/-! DEFINITION. One arm per operation, one meaning per arm. -/

namespace Sys2Proof.Machine

def exec (i : Instr) (s : State) : Host.Outcome State Fault Refusal :=
  match i with
  | .nop => Sys2Proof.Machine.execNop s
  | .crcInit => Sys2Proof.Machine.execCrcInit s
  | .crcUpd b => Sys2Proof.Machine.execCrcUpd b s
  | .crcRdlo => Sys2Proof.Machine.execCrcRdlo s
  | .crcRdhi => Sys2Proof.Machine.execCrcRdhi s
  | .crcRd => Sys2Proof.Machine.execCrcRd s
  | .valRun => Sys2Proof.Machine.execValRun s
  | .valRdcrc => Sys2Proof.Machine.execValRdcrc s
  | .accSetexp h => Sys2Proof.Machine.execAccSetexp h s
  | .accSettmo h => Sys2Proof.Machine.execAccSettmo h s
  | .accStart => Sys2Proof.Machine.execAccStart s
  | .accAbort => Sys2Proof.Machine.execAccAbort s
  | .accClr => Sys2Proof.Machine.execAccClr s
  | .accRdcnt => Sys2Proof.Machine.execAccRdcnt s
  | .accRdbuf h => Sys2Proof.Machine.execAccRdbuf h s
  | .accRdstat => Sys2Proof.Machine.execAccRdstat s
  | .accRdexp => Sys2Proof.Machine.execAccRdexp s
  | .accRdtmo => Sys2Proof.Machine.execAccRdtmo s
  | .accRdtmr => Sys2Proof.Machine.execAccRdtmr s
  | .errClr => Sys2Proof.Machine.execErrClr s
  | .rxByte b => Sys2Proof.Machine.execRxByte b s
  | .tick => Sys2Proof.Machine.execTick s

end Sys2Proof.Machine
end

