-- ==== Sys2Proof/Machine/Cycle.lean ====
section
/-! DEFINITION. One clock cycle: what is presented is decoded and takes effect in the order command, byte, tick (R7), unless
`rst` overrides it (R200). -/

namespace Sys2Proof.Machine

/-- One operation after another: the second sees the state the first left (R7, R47). -/
def andThen (o : Host.Outcome State Fault Refusal) (f : State → Host.Outcome State Fault Refusal) :
    Host.Outcome State Fault Refusal :=
  match o with
  | .next s => f s
  | .fault r => .fault r
  | .refused r => .refused r

/-- A command word accepted on the port: a legal word runs, any other is refused with its code (R62, R171). -/
def runCommand (w : Word24) (s : State) : Host.Outcome State Fault Refusal :=
  match decodeCmd w with
  | .ok i => exec i s
  | .error e => .next (raiseCmdError e s)

/-- The command part of a cycle: an idle port is no command at all (R160). -/
def commandStage (cmd : Option Word24) (s : State) : Host.Outcome State Fault Refusal :=
  match cmd with
  | some w => runCommand w s
  | none => .next s

/-- An event port's part of a cycle. -/
def eventStage (event : Option Instr) (s : State) : Host.Outcome State Fault Refusal :=
  match event with
  | some i => exec i s
  | none => .next s

/-- The state after a cycle with `rst` = 1 (R200): R30's values; `BUF` is not erased (R201), and the block's parameters
and the cycles still to come are not the block's to reset. -/
def resetState (s : State) : State :=
  { State.reset with buf := s.buf, cfg := s.cfg, pending := s.pending }

/-- One cycle. The response port shows this cycle's response or none (R65); `rst` overrides everything presented (R200);
else command, byte, tick, in this order (R7). -/
def runCycle (c : Cycle) (s : State) : Host.Outcome State Fault Refusal :=
  if c.rst then .next (resetState s)
  else
    andThen (commandStage c.cmd { s with rsp := none }) fun s1 =>
      andThen (eventStage (decodeRx c.rx) s1) fun s2 => eventStage (decodeTick c.tick) s2

/-- The block's step as R29 gives it: the parameters are an argument, the ports an input, the response an output, and the
architectural state is all that goes in and comes out as state. -/
def blockStep (cfg : Config) (c : Cycle) (a : Arch) : Host.Outcome (Arch × Option Response) Fault Refusal :=
  match runCycle c { a with cfg := cfg, rsp := none, pending := [] } with
  | .next t => .next (t.toArch, t.rsp)
  | .fault r => .fault r
  | .refused r => .refused r

/-- What the outside world presents in the next cycle: nothing, when nothing is pending. -/
def nextCycle (s : State) : Cycle := s.pending.headD Cycle.quiet

/-- The state with that cycle's presentation used up. -/
def dropCycle (s : State) : State := { s with pending := s.pending.tail }

/-- The cycle that presents one word on its port and nothing else. -/
def Cycle.presenting : PortWord → Cycle
  | .cmd w => { Cycle.quiet with cmd := some w }
  | .rx v => { Cycle.quiet with rx := v }
  | .tick v => { Cycle.quiet with tick := v }

/-- The cycle that presents the word of a row of spec/opcode_table.json; a size no row has presents nothing. -/
def cycleOfTableWord (nbits w : Nat) : Cycle :=
  match portWordOf nbits w with
  | some p => Cycle.presenting p
  | none => Cycle.quiet

/-- Operations one after another (R7: "a list of single operations"), stopping where one stops. -/
def execAll : List Instr → State → Host.Outcome State Fault Refusal
  | [], s => .next s
  | i :: is, s => andThen (exec i s) (execAll is)

end Sys2Proof.Machine
end

