-- ==== Sys2Proof/Machine/Step.lean ====
section
/-! DEFINITION. One step is one clock cycle of the block on what the outside world presents next (R7); the block fetches
nothing (R2), so the place a step takes its operation from is the head of `pending`. -/

namespace Sys2Proof.Machine

/-- One clock cycle. -/
def step (s : State) : Host.Outcome State Fault Refusal := runCycle (nextCycle s) (dropCycle s)

/-- The state in which the next cycle presents exactly this word on its port (log entry 1). -/
def State.withFetchWord (s : State) (nbits w : Nat) : State :=
  { s with pending := cycleOfTableWord nbits w :: s.pending }

end Sys2Proof.Machine
end

