-- ==== Sys2Proof/Machine/Pseudo.lean ====
section
/-! DEFINITION. The pseudo-operations of R68: abbreviations for fixed sequences of operations; "the block knows nothing of
them"; and what a sequence of operations feeds to the generator (R88). -/

namespace Sys2Proof.Machine

/-- R68's five rows. -/
inductive Pseudo where
  /-- `GEN.FRAME b0 … bn-1`. -/
  | genFrame (body : List Byte)
  /-- `VAL.STREAM b0 … bn-1`, n ≥ 2. -/
  | valStream (frame : List Byte)
  /-- `ACC.ARM e t`. -/
  | accArm (e t : Half)
  /-- `RX.FRAME b0 … bn-1`. -/
  | rxFrame (bytes : List Byte)
  /-- `TICKS n`. -/
  | ticks (n : Nat)
  deriving DecidableEq, Repr

/-- The byte an operation feeds to the generator: `CRC.UPD` alone feeds one (R11, R88). -/
def fedByte : Instr → Option Byte
  | .crcUpd b => some b
  | .nop | .crcInit | .crcRdlo | .crcRdhi | .crcRd | .valRun | .valRdcrc | .accSetexp _ | .accSettmo _ | .accStart | .accAbort
  | .accClr | .accRdcnt | .accRdbuf _ | .accRdstat | .accRdexp | .accRdtmo | .accRdtmr | .errClr | .rxByte _ | .tick => none

/-- The bytes a sequence of operations feeds to the generator, whatever stands between them (R88). -/
def fedBytes (ops : List Instr) : List Byte := ops.filterMap fedByte

/-- R68's expansions. -/
def Pseudo.expand : Pseudo → List Instr
  | .genFrame body => .crcInit :: body.map .crcUpd ++ [.crcRdlo, .crcRdhi]
  | .valStream frame => .crcInit :: frame.map .crcUpd ++ [.crcRd]
  | .accArm e t => [.accSetexp e, .accSettmo t, .accStart]
  | .rxFrame bytes => bytes.map .rxByte
  | .ticks n => List.replicate n .tick

end Sys2Proof.Machine
end

