-- ==== Sys2Proof/Safety.lean ====
section
/-! DEFINITION. What counts as safe: a step goes on (93_implementation_defined.md: "every operation in every state has exactly
one next state"), and the invariants R28 lists of every reachable state. -/

namespace Sys2Proof.Machine

/-- The step ends in a next state. -/
def StepsOn (s : State) : Prop := ∃ t, step s = .next t

/-- R28 (a) to (j), clause by clause, with the canonical form of the buffer, the range of the parameters, and one clause that
R28 does not list and its induction needs (`open_unvalidated`). (b), that `ASTATE` is one of three values, holds by its type;
(f) is "a statement about the closing instant only". -/
structure State.Inv (s : State) : Prop where
  /-- R5: 2 ≤ `BUF_SIZE` ≤ 65535. -/
  cfg_wf : s.cfg.wf = true
  /-- The buffer is in canonical form. -/
  buf_wf : Memory.wf s.buf = true
  /-- R25: `BUF` has `BUF_SIZE` cells. -/
  buf_below : Memory.below s.cfg.bufSize s.buf = true
  /-- R28 (a). -/
  count_le : s.count.toNat ≤ s.cfg.bufSize
  /-- R28 (c), quota. -/
  open_quota : s.astate = .opened → s.count < s.expected
  /-- R28 (c), timeout. -/
  open_timer : s.astate = .opened → s.timer < s.timeout
  /-- DEDUCED (log entry 7): `VDONE` is cleared by `ACC.START` and set only by `VAL.RUN` in `DONE` (R20, R110, R124), so a
  window that is open has not been validated. Without it (g) would not survive the next byte. -/
  open_unvalidated : s.astate = .opened → s.vdone = false
  /-- R28 (d), counters. -/
  idle_counters : s.astate = .idle → s.count = 0 ∧ s.timer = 0
  /-- R28 (d), flags. -/
  idle_flags : s.astate = .idle → s.ovf = false ∧ s.vdone = false ∧ s.crcok = false ∧ s.short = false
  /-- R28 (e); with it `IDLE` implies `REASON` = `NONE` (d). -/
  done_iff_reason : s.astate = .done ↔ s.reason ≠ .none
  /-- R28 (g). -/
  crcok_valid : s.crcok = true →
    s.vdone = true ∧ s.short = false ∧ s.ovf = false ∧ 2 ≤ s.count.toNat ∧ validate (candidateFrame s) = true
  /-- R28 (h). -/
  short_short : s.short = true → s.vdone = true ∧ s.count.toNat < 2
  /-- R28 (i). -/
  cmderr_iff : s.cmderr = false ↔ s.lasterr = none
  /-- R28 (j). -/
  ovf_full : s.ovf = true → s.count.toNat = s.cfg.bufSize

end Sys2Proof.Machine
end

