-- ==== Sys2Proof/Certificates/Slice0/Obligations.lean ====
section
/-! DEFINITION. The statements about the block, from the spec's numbered rules. The helpers at the head write a rule's right
side out in the state's own fields, so that a statement does not lean on the operations it is about. -/

open Sys2Proof Sys2Proof.Machine

namespace Sys2Proof.Spec

/-- "`rsp_err` = 0, `rsp` = the value" and nothing else changes (R65). -/
def answered (v : Half) (s : State) : State := { s with rsp := some ⟨false, v⟩ }

/-- The code of R170's table as the 16-bit response gives it (R171: `zext_16(code)`). -/
def codeOf : CmdError → Half
  | .illegalOpcode => 1
  | .reservedOperand => 2
  | .badState => 3

/-- `CMDERR <- 1`, `LASTERR <- code`, the error response, and nothing else changes (R171). -/
def refusedWith (e : CmdError) (s : State) : State :=
  { s with cmderr := true, lasterr := some e, rsp := some ⟨true, codeOf e⟩ }

/-- A format `N` command word with a nonzero operand is refused with `RESERVED_OPERAND` in every state (R61, R170). -/
def operandReserved (op : Byte) : Prop :=
  ∀ (s : State) (arg : Half), arg ≠ 0 → runCommand (cmdWord op arg) s = .next (refusedWith .reservedOperand s)

/-- The opcodes R64 lists as illegal, by its ranges. -/
def opcodeIllegal (op : Nat) : Prop :=
  (0x06 ≤ op ∧ op ≤ 0x0F) ∨ (0x12 ≤ op ∧ op ≤ 0x1F) ∨ (0x2B ≤ op ∧ op ≤ 0x2F) ∨ (0x31 ≤ op ∧ op ≤ 0xFF)

/-- R135's table: where each operation takes `ASTATE` and `REASON`, on the values before the operation. -/
def transition (s : State) : Instr → AState × Reason
  | .accStart =>
    if s.astate = .opened then (s.astate, s.reason)
    else if s.expected = 0 then (.done, .quota)
    else if s.timeout = 0 then (.done, .tmo)
    else (.opened, .none)
  | .rxByte _ =>
    if s.astate = .opened ∧ s.expected.toNat ≤ s.count.toNat + 1 ∧ s.count.toNat < s.cfg.bufSize then (.done, .quota)
    else (s.astate, s.reason)
  | .tick =>
    if s.astate = .opened ∧ s.timeout.toNat ≤ s.timer.toNat + 1 then (.done, .tmo) else (s.astate, s.reason)
  | .accAbort => if s.astate = .opened then (.done, .abort) else (s.astate, s.reason)
  | .accClr => if s.astate = .opened then (s.astate, s.reason) else (.idle, .none)
  | .nop | .crcInit | .crcUpd _ | .crcRdlo | .crcRdhi | .crcRd | .valRun | .valRdcrc | .accSetexp _ | .accSettmo _
  | .accRdcnt | .accRdbuf _ | .accRdstat | .accRdexp | .accRdtmo | .accRdtmr | .errClr => (s.astate, s.reason)

/-- The commands R170 lists under `BAD_STATE`, with the states in which each is refused. -/
def preconditionFails (s : State) : Instr → Prop
  | .valRun => s.astate ≠ .done
  | .accSetexp _ | .accSettmo _ | .accStart | .accClr => s.astate = .opened
  | .nop | .crcInit | .crcUpd _ | .crcRdlo | .crcRdhi | .crcRd | .valRdcrc | .accAbort | .accRdcnt | .accRdbuf _
  | .accRdstat | .accRdexp | .accRdtmo | .accRdtmr | .errClr | .rxByte _ | .tick => False

/-- `COUNT` and `TIMER` after each operation, on the values before it (R13, R16). -/
def countersAfter (s : State) : Instr → Half × Half
  | .accStart | .accClr => if s.astate = .opened then (s.count, s.timer) else (0, 0)
  | .rxByte _ =>
    (if s.astate = .opened ∧ s.count.toNat < s.cfg.bufSize then s.count + 1 else s.count,
      if s.astate = .opened ∧ s.cfg.timeoutRestart = true then 0 else s.timer)
  | .tick => (s.count, if s.astate = .opened then s.timer + 1 else s.timer)
  | .nop | .crcInit | .crcUpd _ | .crcRdlo | .crcRdhi | .crcRd | .valRun | .valRdcrc | .accSetexp _ | .accSettmo _ | .accAbort
  | .accRdcnt | .accRdbuf _ | .accRdstat | .accRdexp | .accRdtmo | .accRdtmr | .errClr => (s.count, s.timer)

/-- `OVF`, `VDONE`, `CRCOK` and `SHORT` after each operation, on the values before it (R19, R20, R21, R22). -/
def flagsAfter (s : State) : Instr → Bool × Bool × Bool × Bool
  | .accStart | .accClr => if s.astate = .opened then (s.ovf, s.vdone, s.crcok, s.short) else (false, false, false, false)
  | .valRun =>
    if s.astate = .done then (s.ovf, true, validate (candidateFrame s) && !s.ovf, decide (s.count.toNat < 2))
    else (s.ovf, s.vdone, s.crcok, s.short)
  | .rxByte _ =>
    (if s.astate = .opened ∧ s.cfg.bufSize ≤ s.count.toNat then true else s.ovf, s.vdone, s.crcok, s.short)
  | .nop | .crcInit | .crcUpd _ | .crcRdlo | .crcRdhi | .crcRd | .valRdcrc | .accSetexp _ | .accSettmo _ | .accAbort | .accRdcnt
  | .accRdbuf _ | .accRdstat | .accRdexp | .accRdtmo | .accRdtmr | .errClr | .tick => (s.ovf, s.vdone, s.crcok, s.short)

/-- The command part of a cycle takes `s` to `t`: no command is presented, or a legal one runs, or any other is refused. -/
def commandTakes (cmd : Option Word24) (s t : State) : Prop :=
  (cmd = none ∧ t = s) ∨
  ∃ w, cmd = some w ∧ ((∃ i, decodeCmd w = .ok i ∧ exec i s = .next t) ∨ ∃ e, decodeCmd w = .error e ∧ t = refusedWith e s)

/-- The byte part of a cycle takes `s` to `t`: `rx_valid` is 0, or `RX.BYTE` runs. -/
def byteTakes (rx : BitVec 9) (s t : State) : Prop :=
  (rx.getLsbD 8 = false ∧ t = s) ∨ ∃ b : Byte, rx = rxWord b ∧ exec (.rxByte b) s = .next t

/-- The tick part of a cycle takes `s` to `t`: `tick` is 0, or `TICK` runs. -/
def tickTakes (tick : BitVec 1) (s t : State) : Prop := (tick = 0 ∧ t = s) ∨ (tick = 1 ∧ exec .tick s = .next t)

/-- Two states that differ at most in the error record. -/
def SameButErrorRecord (s t : State) : Prop := t = { s with cmderr := t.cmderr, lasterr := t.lasterr }

/-- Two states a host cannot tell apart by R42's gate: they agree in every field but `BUF`, and in `BUF` below `COUNT`. -/
def SameBelowCount (s t : State) : Prop :=
  t = { s with buf := t.buf } ∧ ∀ i, i < s.count.toNat → Memory.read t.buf i = Memory.read s.buf i

/-- A byte after `k` ticks: the pattern of a line that is never silent for long (R136). -/
def ticksThenByte (p : Nat × Byte) : List Instr := List.replicate p.1 .tick ++ [.rxByte p.2]

/-- What a window armed in `s`, that was to hold the frame `f` and was validated, leaves: closed by its quota with the candidate
frame `f`, `CRCOK` and the response telling whether `f` is valid, and the generator and the error record undisturbed. -/
def ReceivedAndValidated (s t : State) (f : List Byte) : Prop :=
  t.astate = .done ∧ t.reason = .quota ∧ t.count.toNat = f.length ∧ candidateFrame t = f ∧ t.ovf = false ∧
  t.vdone = true ∧ t.crcok = validate f ∧ (t.short = true ↔ f.length < 2) ∧
  t.rsp = some ⟨false, if validate f = true then 1 else 0⟩ ∧ t.crc = s.crc ∧ t.cmderr = s.cmderr ∧ t.lasterr = s.lasterr

end Sys2Proof.Spec

open Sys2Proof.Spec

/-! ## Encoding -/

/-- Words written out from R63, R66 and R67's examples decode to the operations they stand for, and two others are rejected
by name. -/
def Obligations.SpecWordsDecode : Prop :=
  decode (.cmd 0x000000) = .ok .nop ∧ decode (.cmd 0x02002A) = .ok (.crcUpd 0x2A) ∧
  decode (.cmd 0x100000) = .ok .valRun ∧ decode (.cmd 0x200009) = .ok (.accSetexp 9) ∧
  decode (.cmd 0x2103E8) = .ok (.accSettmo 1000) ∧ decode (.cmd 0x220000) = .ok .accStart ∧
  decode (.cmd 0x26FFFF) = .ok (.accRdbuf 0xFFFF) ∧ decode (.cmd 0x300000) = .ok .errClr ∧
  decode (.rx 0b100111011) = .ok (.rxByte 0x3B) ∧ decode (.tick 1) = .ok .tick ∧
  decode (.cmd 0x7F0000) = .error (.command .illegalOpcode) ∧ decode (.cmd 0x000001) = .error (.command .reservedOperand)

/-- Decoding the word of any operation gives the operation back, every operand at every value (R60, R61, R63, R66). -/
def Obligations.DecodeOfEncodeIsTheOperation : Prop := ∀ i : Instr, i.wf = true → decode (encode i) = .ok i

/-- A word that decodes is the one word of its operation: no two words of a port are one operation, and none executes as
another command (R60, R64, R66). -/
def Obligations.DecodedWordIsTheEncoding : Prop := ∀ (p : PortWord) (i : Instr), decode p = .ok i → encode i = p

/-- Steps (1) and (2) of R62 over all 2^24 words: `ILLEGAL_OPCODE` exactly for R64's opcodes whatever the operand is, else
`RESERVED_OPERAND` exactly when a must-be-zero bit of R61's format is 1, else one operation. -/
def Obligations.EveryCommandWordIsOneRowOrOneRefusal : Prop :=
  ∀ (op : Byte) (arg : Half),
    (decodeCmd (cmdWord op arg) = .error .illegalOpcode ↔ opcodeIllegal op.toNat) ∧
    (decodeCmd (cmdWord op arg) = .error .reservedOperand ↔
      ¬ opcodeIllegal op.toNat ∧ op ≠ 0x20 ∧ op ≠ 0x21 ∧ op ≠ 0x26 ∧ (if op = 0x02 then 256 ≤ arg.toNat else arg ≠ 0)) ∧
    ((∃ i, decodeCmd (cmdWord op arg) = .ok i) ↔
      ¬ opcodeIllegal op.toNat ∧
        (op = 0x20 ∨ op = 0x21 ∨ op = 0x26 ∨ (op = 0x02 ∧ arg.toNat < 256) ∨ arg = 0)) ∧
    decodeCmd (cmdWord op arg) ≠ .error .badState

/-- R63's `match`/`mask` table and the decoder agree on every word: a word decodes exactly when a row selects it, the row
carries the operation's mnemonic, and no word selects two rows. -/
def Obligations.DecoderAgreesWithMatchAndMask : Prop :=
  ∀ w : Word24,
    ((∃ i, decodeCmd w = .ok i) ↔ ∃ r, r ∈ commandTable ∧ r.selects w = true) ∧
    (∀ i r, decodeCmd w = .ok i → r ∈ commandTable → r.selects w = true → r.mnemonic = i.mnemonic) ∧
    (∀ r r', r ∈ commandTable → r' ∈ commandTable → r.selects w = true → r'.selects w = true → r = r')

/-! ## The step -/

/-- A cycle that presents one operation and nothing else runs exactly the operation its word decodes to, on the state with
that cycle used up and the response port cleared; so does the cycle `withFetchWord` places (R7, R8, R66; the queue of
cycles is the model's, log entry 1). -/
def Obligations.StepRunsTheDecodedOperation : Prop :=
  (∀ (s : State) (rest : List Cycle) (w : Word24) (i : Instr),
    s.pending = ⟨false, some w, 0, 0⟩ :: rest → decode (.cmd w) = .ok i →
      step s = exec i { s with pending := rest, rsp := none }) ∧
  (∀ (s : State) (rest : List Cycle) (v : BitVec 9) (i : Instr),
    s.pending = ⟨false, none, v, 0⟩ :: rest → decode (.rx v) = .ok i →
      step s = exec i { s with pending := rest, rsp := none }) ∧
  (∀ (s : State) (rest : List Cycle) (v : BitVec 1) (i : Instr),
    s.pending = ⟨false, none, 0, v⟩ :: rest → decode (.tick v) = .ok i →
      step s = exec i { s with pending := rest, rsp := none }) ∧
  (∀ (s : State) (nbits w : Nat) (i : Instr),
    decodeTableWord nbits w = some i → step (s.withFetchWord nbits w) = exec i { s with rsp := none })

/-- Whatever operations a cycle brings, of the command, the byte and the tick any, all or none, they take effect in the order
command, `RX.BYTE`, `TICK`, each on the state the previous one left; a refused command does not stop the cycle's byte and
tick (R7, R173; the queue of cycles and the response port are the model's, log entries 1 and 3). -/
def Obligations.CycleTakesCommandThenByteThenTick : Prop :=
  ∀ (s s1 s2 s3 : State) (rest : List Cycle) (cmd : Option Word24) (rx : BitVec 9) (tick : BitVec 1),
    s.pending = ⟨false, cmd, rx, tick⟩ :: rest → commandTakes cmd { s with pending := rest, rsp := none } s1 →
    byteTakes rx s1 s2 → tickTakes tick s2 s3 → step s = .next s3

/-- The block's step is a function of the parameters, the ports and the architectural state of R10 alone, and gives the
architectural state after and the response: a step of the model is that function on the state's parameters and its next
cycle, and what State holds beside R10's fields takes no other part in it (R29, items 1 to 3; that State carries the
parameters, the response and the cycles to come is the model's, log entries 1 to 3). -/
def Obligations.StepIsTheBlocksStep : Prop :=
  ∀ s : State, step s =
    match blockStep s.cfg (nextCycle s) s.toArch with
    | .next (a, r) => .next { a with cfg := s.cfg, rsp := r, pending := s.pending.tail }
    | .fault f => .fault f
    | .refused r => .refused r

/-- R7's consequences: a byte delivered in the same cycle as the tick that would end the window is accepted, and the byte of the
cycle that opens the window is accepted (R7). -/
def Obligations.SameCycleRacesAreDecided : Prop :=
  (∀ (s : State) (rest : List Cycle) (b : Byte), s.astate = .opened → s.count.toNat < s.cfg.bufSize → s.cfg.wf = true →
    s.pending = ⟨false, none, rxWord b, 1⟩ :: rest →
      ∃ t, step s = .next t ∧ t.count = s.count + 1 ∧ Memory.read t.buf s.count.toNat = b) ∧
  (∀ (s : State) (rest : List Cycle) (b : Byte), s.astate ≠ .opened → s.expected ≠ 0 → s.timeout ≠ 0 → s.cfg.wf = true →
    s.pending = ⟨false, some 0x220000, rxWord b, 0⟩ :: rest →
      ∃ t, step s = .next t ∧ t.count = 1 ∧ Memory.read t.buf 0 = b)

/-- A cycle in which nothing is presented is no command: no response stands on the port and nothing else changes (R160's
corner case; that the empty queue presents nothing is the model's choice, log entry 1). -/
def Obligations.QuietCycleChangesNothing : Prop :=
  (∀ s : State, s.pending = [] → step s = .next { s with rsp := none }) ∧
  (∀ (s : State) (rest : List Cycle) (d : Byte),
    s.pending = ⟨false, none, d.setWidth 9, 0⟩ :: rest → step s = .next { s with rsp := none, pending := rest })

/-- The state after reset is R30's, with the status word and the outputs it derives. -/
def Obligations.ResetStateIsTheSpecs : Prop :=
  State.reset.crc = 0xFFFF ∧ State.reset.vcrc = 0xFFFF ∧ State.reset.count = 0 ∧ State.reset.expected = 0xFFFF ∧
  State.reset.timeout = 0x03E8 ∧ State.reset.timer = 0 ∧ State.reset.astate = .idle ∧ State.reset.reason = .none ∧
  State.reset.ovf = false ∧ State.reset.vdone = false ∧ State.reset.crcok = false ∧ State.reset.short = false ∧
  State.reset.cmderr = false ∧ State.reset.lasterr = none ∧ statusWord State.reset = 0x0000 ∧
  doneOut State.reset = false ∧ openOut State.reset = false ∧
  ∀ i : Half, exec (.accRdbuf i) State.reset = .next (answered 0 State.reset)

/-- A cycle with `rst` = 1 takes every register to its reset value whatever the state was and whatever else is presented:
the command gets no response, the byte is lost and the tick is not counted (R200). R201 and R30 leave `BUF` unspecified after
a reset: that its cells survive is the model's choice, log entry 4, and that the parameters and the cycles still to come
survive is the model's, log entries 1 and 2. -/
def Obligations.ResetOverridesTheWholeCycle : Prop :=
  ∀ (s : State) (rest : List Cycle) (cmd : Option Word24) (rx : BitVec 9) (tick : BitVec 1),
    s.pending = ⟨true, cmd, rx, tick⟩ :: rest →
      step s = .next
        { crc := 0xFFFF, vcrc := 0xFFFF, buf := s.buf, count := 0, expected := 0xFFFF, timeout := 0x03E8, timer := 0,
          astate := .idle, reason := .none, ovf := false, vdone := false, crcok := false, short := false,
          cmderr := false, lasterr := none, cfg := s.cfg, rsp := none, pending := rest }

/-- In a cycle without `rst`, an accepted command leaves exactly one response on the port and no command leaves none; the
error bit is set exactly when the command was refused, and then the data is the code `LASTERR` now holds (R65, R171). That the
response stands in the command's own cycle is the model's, log entry 6: by R200 a multi-cycle command that an `rst` in a
later cycle overtakes gets none. -/
def Obligations.EveryAcceptedCommandHasOneResponse : Prop :=
  ∀ s t : State, (nextCycle s).rst = false → step s = .next t →
    ((nextCycle s).cmd = none → t.rsp = none) ∧
    (∀ w, (nextCycle s).cmd = some w →
      ∃ r, t.rsp = some r ∧
        (r.err = true ↔
          (∃ e, decodeCmd w = .error e) ∨ (∃ i, decodeCmd w = .ok i ∧ preconditionFails s i)) ∧
        (r.err = true → ∃ e, t.cmderr = true ∧ t.lasterr = some e ∧ r.data = codeOf e))

/-! ## Command errors -/

/-- Error entry from the decoder: a word that is no legal command is refused with its code, in every state, with no other
effect (R62, R64, R171). -/
def Obligations.UndecodableCommandIsRefused : Prop :=
  ∀ (w : Word24) (e : CmdError) (s : State), decodeCmd w = .error e → runCommand w s = .next (refusedWith e s)

/-- Error entry from the state: each command R170 lists under `BAD_STATE` is refused with code 3 in the states R170 names,
with none of its normal effects. -/
def Obligations.BadStateCommandIsRefused : Prop :=
  ∀ (i : Instr) (s : State), preconditionFails s i → exec i s = .next (refusedWith .badState s)

/-- The first failing check of R62 names the error: opcode, then must-be-zero bits, then state, whatever the later
checks would say; with R172's two words (R172). -/
def Obligations.FirstFailingCheckNamesTheError : Prop :=
  (∀ s : State, runCommand 0x7F0001 s = .next (refusedWith .illegalOpcode s)) ∧
  (∀ s : State, s.astate = .idle → runCommand 0x100001 s = .next (refusedWith .reservedOperand s)) ∧
  (∀ s : State, s.astate = .idle → runCommand 0x100000 s = .next (refusedWith .badState s)) ∧
  (∀ (op : Byte) (arg : Half) (s : State), opcodeIllegal op.toNat →
    runCommand (cmdWord op arg) s = .next (refusedWith .illegalOpcode s)) ∧
  (∀ (w : Word24) (s : State), decodeCmd w = .error .reservedOperand → runCommand w s = .next (refusedWith .reservedOperand s)) ∧
  (∀ (w : Word24) (i : Instr) (s : State), decodeCmd w = .ok i → preconditionFails s i →
    runCommand w s = .next (refusedWith .badState s))

/-- Errors are precise: a command that goes on either is refused, and then the state after is the state before plus the
error record and the response, or succeeds with the error bit 0 and an error record that only `ERR.CLR` changes (R62,
R171, R174). -/
def Obligations.RefusedCommandsHaveNoOtherEffect : Prop :=
  ∀ (w : Word24) (s t : State), runCommand w s = .next t →
    (∃ e, t = refusedWith e s) ∨
    ((∃ d, t.rsp = some ⟨false, d⟩) ∧
      (decodeCmd w = .ok .errClr ∨ (t.cmderr = s.cmderr ∧ t.lasterr = s.lasterr)))

/-- Over a whole cycle the error record is written by a refusal, cleared by `ERR.CLR`, and else left alone; and a recorded error
blocks nothing: of two states that differ at most in the error record, a cycle whose command is not the status read
`ACC.RDSTAT` gives states that again differ at most there, the response among the fields that agree (R23, R24, R174). -/
def Obligations.ErrorRecordChangesOnlyByRefusalAndErrClr : Prop :=
  (∀ s t : State, (nextCycle s).rst = false → step s = .next t →
    (∃ e, t.cmderr = true ∧ t.lasterr = some e ∧ t.rsp = some ⟨true, codeOf e⟩) ∨
    ((nextCycle s).cmd = some 0x300000 ∧ t.cmderr = false ∧ t.lasterr = none ∧ t.rsp = some ⟨false, 0⟩) ∨
    (t.cmderr = s.cmderr ∧ t.lasterr = s.lasterr ∧ ∀ d, t.rsp ≠ some ⟨true, d⟩)) ∧
  (∀ s s' t : State, SameButErrorRecord s s' → (nextCycle s).cmd ≠ some 0x270000 → step s = .next t →
    ∃ t', step s' = .next t' ∧ SameButErrorRecord t t')

/-! ## The CRC functions -/

/-- R80's shift step and R81's byte step as the spec writes them, with R81's worked example and the six values of
vector V13, which the spec derives from R80 (R80, R81). -/
def Obligations.CrcStepIsEightShiftSteps : Prop :=
  (∀ c : Half, crcBit c = if c.getLsbD 0 then (c >>> 1) ^^^ 0xA001 else c >>> 1) ∧
  (∀ (c : Half) (b : Byte), crcStep c b =
    crcBit (crcBit (crcBit (crcBit (crcBit (crcBit (crcBit (crcBit (c ^^^ b.setWidth 16))))))))) ∧
  crcBit 0xFFFE = 0x7FFF ∧ crcBit 0x7FFF = 0x9FFE ∧ crcBit 0x9FFE = 0x4FFF ∧ crcBit 0x4FFF = 0x87FE ∧
  crcBit 0x87FE = 0x43FF ∧ crcBit 0x43FF = 0x81FE ∧ crcBit 0x81FE = 0x40FF ∧ crcBit 0x40FF = 0x807E ∧
  crcStep 0xFFFF 0x01 = 0x807E ∧
  crcBit 0x0001 = 0xA001 ∧ crcBit 0x0002 = 0x0001 ∧ crcBit 0xFFFF = 0xDFFE ∧ crcBit 0x8000 = 0x4000 ∧
  crcBit 0x0000 = 0x0000 ∧ crcBit 0xA001 = 0xF001

/-- `crc16` starts from `0xFFFF` and takes the bytes first to last; a CRC may be continued from a part's CRC; and the customary
check string gives `0x4B37` (R82; R88, which the spec derives from R82; vector V5, which the spec derives too). -/
def Obligations.Crc16IsALeftFold : Prop :=
  crc16 [] = 0xFFFF ∧
  (∀ (s : List Byte) (b : Byte), crc16 (s ++ [b]) = crcStep (crc16 s) b) ∧
  (∀ s t : List Byte, crc16 (s ++ t) = t.foldl crcStep (crc16 s)) ∧
  crc16 [0x31, 0x32, 0x33, 0x34, 0x35, 0x36, 0x37, 0x38, 0x39] = 0x4B37

/-- The lookup-table form and the bit-shift form give the same register for every input, and the 256 entries R83 prints are
the ones the shift steps compute (R83, which the spec derives from R80 and R81). -/
def Obligations.TableFormEqualsShiftForm : Prop :=
  (∀ i : Byte, crcTable i =
    crcBit (crcBit (crcBit (crcBit (crcBit (crcBit (crcBit (crcBit (i.setWidth 16))))))))) ∧
  (∀ (c : Half) (b : Byte), crcStep c b = (c >>> 8) ^^^ crcTable ((c ^^^ b.setWidth 16).extractLsb' 0 8)) ∧
  crcListing = (List.range 256).map fun i => crcTable (BitVec.ofNat 8 i)

/-- A frame is its body followed by the low byte and then the high byte of the body's CRC; a frame is valid exactly when it has
at least two bytes and its last two are the low and the high byte of the CRC of what precedes them (R84, R85; R84's example,
and R85's `FF FF`). -/
def Obligations.FramesEndInTheirCrcLowByteFirst : Prop :=
  (∀ s : List Byte, appendCrc s = s ++ [(crc16 s).extractLsb' 0 8, (crc16 s).extractLsb' 8 8]) ∧
  (∀ (s : List Byte) (x y : Byte),
    validate (s ++ [x, y]) = true ↔ (crc16 s).extractLsb' 0 8 = x ∧ (crc16 s).extractLsb' 8 8 = y) ∧
  (∀ f : List Byte, f.length < 2 → validate f = false) ∧
  appendCrc [0x01, 0x03, 0x00, 0x00, 0x00, 0x02] = [0x01, 0x03, 0x00, 0x00, 0x00, 0x02, 0xC4, 0x0B] ∧
  validate [0xFF, 0xFF] = true

/-- Round trip and residue: a frame made with its CRC validates whatever the body, its own CRC is 0, and a frame of at least two
bytes validates exactly when the CRC over all of it is 0, so the residue form and the block's form of the test accept the same
frames (R86, which the spec derives from R80 to R85). -/
def Obligations.ValidityIsTheZeroResidue : Prop :=
  (∀ s : List Byte, validate (appendCrc s) = true) ∧ (∀ s : List Byte, crc16 (appendCrc s) = 0x0000) ∧
  (∀ f : List Byte, 2 ≤ f.length → (validate f = true ↔ crc16 f = 0x0000)) ∧
  (∀ f : List Byte, validateByResidue f = validate f) ∧
  (∀ c : Half, crcStep (crcStep c (c.extractLsb' 0 8)) (c.extractLsb' 8 8) = 0x0000)

/-- Changing any one byte of a frame made with its CRC makes it fail, and so does changing any two adjacent bytes, wherever in
the frame they stand; said once by R87's index and once by where the frame is cut (R87, which the spec derives from R83 and
R86). -/
def Obligations.CorruptedBytesAreDetected : Prop :=
  (∀ (s : List Byte) (i : Nat) (d : Byte), i < s.length + 2 → d ≠ 0 →
    (corruptAt i [d] (appendCrc s))[i]? = (appendCrc s)[i]?.map (· ^^^ d) ∧
    (∀ j, j ≠ i → (corruptAt i [d] (appendCrc s))[j]? = (appendCrc s)[j]?) ∧
    validate (corruptAt i [d] (appendCrc s)) = false) ∧
  (∀ (s : List Byte) (i : Nat) (d e : Byte), i + 1 < s.length + 2 → (d ≠ 0 ∨ e ≠ 0) →
    validate (corruptAt i [d, e] (appendCrc s)) = false) ∧
  (∀ (s p q : List Byte) (x d : Byte), appendCrc s = p ++ x :: q → d ≠ 0 → validate (p ++ (x ^^^ d) :: q) = false) ∧
  (∀ (s p q : List Byte) (x y d e : Byte), appendCrc s = p ++ x :: y :: q → (d ≠ 0 ∨ e ≠ 0) →
    validate (p ++ (x ^^^ d) :: (y ^^^ e) :: q) = false)

/-- What `validate` does not detect: a valid frame with bytes added is valid exactly when those bytes take the register from
`0x0000` back to `0x0000`, which any number of zero bytes does and, for one or two bytes, only zero bytes do (R96, which the spec
derives from R80, R81 and R86). -/
def Obligations.TrailingZerosStillValidate : Prop :=
  (∀ (f t : List Byte), validate f = true → (validate (f ++ t) = true ↔ t.foldl crcStep 0 = 0)) ∧
  (∀ (f : List Byte) (n : Nat), validate f = true → validate (f ++ List.replicate n 0x00) = true) ∧
  (∀ (f t : List Byte), validate f = true → t.length ≤ 2 → validate (f ++ t) = true → ∀ b ∈ t, b = 0x00)

/-- The register may be fed a frame in pieces, with any other operations between the pieces: over any sequence of operations
without `CRC.INIT`, `CRC` ends where the bytes fed take it, one after the other, from where it stood; after a `CRC.INIT` that
is the CRC of all of them; and feeding one piece and then another is feeding both (R88, which the spec derives from R82). -/
def Obligations.CrcMayBeFedInPieces : Prop :=
  (∀ (ops : List Instr) (s t : State), Instr.crcInit ∉ ops → execAll ops s = .next t → t.crc = crcFrom s.crc (fedBytes ops)) ∧
  (∀ (ops : List Instr) (s t : State), Instr.crcInit ∉ ops → execAll (.crcInit :: ops) s = .next t →
    t.crc = crc16 (fedBytes ops)) ∧
  (∀ x y : List Byte, crc16 (x ++ y) = crcFrom (crc16 x) y) ∧
  (∀ x y : List Instr, fedBytes (x ++ y) = fedBytes x ++ fedBytes y)

/-! ## The commands -/

/-- `NOP` writes nothing and answers 0, the only word that is a `NOP` is all zeros, and an idle command port is no command; `ERR.CLR` clears `CMDERR` and `LASTERR`
and nothing else, and one with a bad operand is refused like any command (R160, R161). -/
def Obligations.SystemCommandsTouchOnlyTheErrorRecord : Prop :=
  decodeCmd 0x000000 = .ok .nop ∧ decodeCmd 0x300000 = .ok .errClr ∧
  (∀ s : State, exec .nop s = .next (answered 0 s)) ∧
  (∀ s : State, exec .errClr s = .next (answered 0 { s with cmderr := false, lasterr := none })) ∧
  (∀ s : State, commandStage none s = .next s) ∧ operandReserved 0x00 ∧ operandReserved 0x30

/-- `CRC.INIT` writes `0xFFFF` to `CRC` and `CRC.UPD b` takes `CRC` one byte further, in every `ASTATE`, and neither writes
anything else; an operand above one byte, or any operand of `CRC.INIT`, is refused (R90, R91, with R91's two values). -/
def Obligations.CrcWritesTouchOnlyCrc : Prop :=
  decodeCmd 0x010000 = .ok .crcInit ∧ operandReserved 0x01 ∧
  (∀ s : State, exec .crcInit s = .next (answered 0 { s with crc := 0xFFFF })) ∧
  (∀ b : Byte, decodeCmd (cmdWord 0x02 (b.setWidth 16)) = .ok (.crcUpd b)) ∧
  (∀ (b : Byte) (s : State), exec (.crcUpd b) s = .next (answered 0 { s with crc := crcStep s.crc b })) ∧
  (∀ (s : State) (arg : Half), 256 ≤ arg.toNat →
    runCommand (cmdWord 0x02 arg) s = .next (refusedWith .reservedOperand s)) ∧
  crcStep 0xFFFF 0x00 = 0x40BF ∧ crcStep 0xFFFF 0x01 = 0x807E

/-- The three reads of `CRC`: the low byte, the high byte, the whole, each zero-extended, in every state and writing no state
(R92, R93, R94). -/
def Obligations.CrcReadsAnswerTheRegister : Prop :=
  decodeCmd 0x030000 = .ok .crcRdlo ∧ decodeCmd 0x040000 = .ok .crcRdhi ∧ decodeCmd 0x050000 = .ok .crcRd ∧
  (∀ s : State, exec .crcRdlo s = .next (answered (s.crc &&& 0x00FF) s)) ∧
  (∀ s : State, exec .crcRdhi s = .next (answered (s.crc >>> 8) s)) ∧
  (∀ s : State, exec .crcRd s = .next (answered s.crc s)) ∧
  operandReserved 0x03 ∧ operandReserved 0x04 ∧ operandReserved 0x05

/-- The reads of `VCRC`, `COUNT`, `EXPECTED`, `TIMEOUT` and `TIMER`: each answers its register in every state and writes no
state (R111, R127, R130, R131, R132). -/
def Obligations.RegisterReadsAnswerTheRegister : Prop :=
  decodeCmd 0x110000 = .ok .valRdcrc ∧ decodeCmd 0x250000 = .ok .accRdcnt ∧ decodeCmd 0x280000 = .ok .accRdexp ∧
  decodeCmd 0x290000 = .ok .accRdtmo ∧ decodeCmd 0x2A0000 = .ok .accRdtmr ∧
  (∀ s : State, exec .valRdcrc s = .next (answered s.vcrc s)) ∧
  (∀ s : State, exec .accRdcnt s = .next (answered s.count s)) ∧
  (∀ s : State, exec .accRdexp s = .next (answered s.expected s)) ∧
  (∀ s : State, exec .accRdtmo s = .next (answered s.timeout s)) ∧
  (∀ s : State, exec .accRdtmr s = .next (answered s.timer s)) ∧
  operandReserved 0x11 ∧ operandReserved 0x25 ∧ operandReserved 0x28 ∧ operandReserved 0x29 ∧ operandReserved 0x2A

/-- `ACC.RDSTAT` answers the status word and writes no state; the word holds each field at R26's bits, its top four bits are 0,
and R26's example reads `0x006A` (R26, R129). -/
def Obligations.StatusWordHoldsEveryField : Prop :=
  decodeCmd 0x270000 = .ok .accRdstat ∧ operandReserved 0x27 ∧
  (∀ s : State, exec .accRdstat s = .next (answered (statusWord s) s)) ∧
  (∀ s : State,
    ((statusWord s).extractLsb' 0 2).toNat = (match s.astate with | .idle => 0 | .opened => 1 | .done => 2) ∧
    ((statusWord s).extractLsb' 2 2).toNat = (match s.reason with | .none => 0 | .quota => 1 | .tmo => 2 | .abort => 3) ∧
    (statusWord s).getLsbD 4 = s.ovf ∧ (statusWord s).getLsbD 5 = s.vdone ∧ (statusWord s).getLsbD 6 = s.crcok ∧
    (statusWord s).getLsbD 7 = s.short ∧ (statusWord s).getLsbD 8 = s.cmderr ∧
    ((statusWord s).extractLsb' 9 3).toNat =
      (match s.lasterr with | none => 0 | some .illegalOpcode => 1 | some .reservedOperand => 2 | some .badState => 3) ∧
    ((statusWord s).extractLsb' 12 4).toNat = 0) ∧
  (∀ s : State, s.astate = .done → s.reason = .tmo → s.ovf = false → s.vdone = true → s.crcok = true → s.short = false →
    s.cmderr = false → s.lasterr = none → statusWord s = 0x006A)

/-- `ACC.RDBUF h` answers the byte at index `h` below `COUNT` and 0 at or above it, at every one of the 65536 indices, and
writes no state; there is no reserved operand (R42, R128). -/
def Obligations.BufferReadIsGatedByCount : Prop :=
  (∀ h : Half, decodeCmd (cmdWord 0x26 h) = .ok (.accRdbuf h)) ∧
  (∀ (h : Half) (s : State), s.count ≤ h → exec (.accRdbuf h) s = .next (answered 0x0000 s)) ∧
  (∀ (h : Half) (s : State), h < s.count → h.toNat < s.cfg.bufSize →
    exec (.accRdbuf h) s = .next (answered ((Memory.read s.buf h.toNat).setWidth 16) s))

/-- `ACC.SETEXP` and `ACC.SETTMO` load their register with any value when no window is open, writing nothing else and not
re-evaluating a closed window, and are refused in `OPEN`; no operand is reserved (R122, R123). -/
def Obligations.ConfigurationCommandsLoadTheirRegister : Prop :=
  (∀ h : Half, decodeCmd (cmdWord 0x20 h) = .ok (.accSetexp h) ∧ decodeCmd (cmdWord 0x21 h) = .ok (.accSettmo h)) ∧
  (∀ (h : Half) (s : State), s.astate ≠ .opened → exec (.accSetexp h) s = .next (answered 0 { s with expected := h })) ∧
  (∀ (h : Half) (s : State), s.astate ≠ .opened → exec (.accSettmo h) s = .next (answered 0 { s with timeout := h })) ∧
  (∀ (h : Half) (s : State), s.astate = .opened → exec (.accSetexp h) s = .next (refusedWith .badState s)) ∧
  (∀ (h : Half) (s : State), s.astate = .opened → exec (.accSettmo h) s = .next (refusedWith .badState s))

/-- `acc_check()` closes an open window by quota first, by timeout else, both comparisons unsigned, and changes nothing but
`ASTATE` and `REASON` (R121). -/
def Obligations.CloseTestIsQuotaThenTimeout : Prop :=
  (∀ s : State, s.astate ≠ .opened → accCheck s = s) ∧
  (∀ s : State, s.astate = .opened → s.expected.toNat ≤ s.count.toNat →
    accCheck s = { s with astate := .done, reason := .quota }) ∧
  (∀ s : State, s.astate = .opened → s.count.toNat < s.expected.toNat → s.timeout.toNat ≤ s.timer.toNat →
    accCheck s = { s with astate := .done, reason := .tmo }) ∧
  (∀ s : State, s.astate = .opened → s.count.toNat < s.expected.toNat → s.timer.toNat < s.timeout.toNat → accCheck s = s)

/-- `ACC.START` outside `OPEN` clears the counters, the reason and the four flags, opens the window, and closes it at once for
a quota or a timeout of 0; `BUF`, `EXPECTED`, `TIMEOUT`, `CRC`, `VCRC` and the error record keep their values; in `OPEN` it
is refused and the window is not disturbed (R124). -/
def Obligations.StartOpensAWindow : Prop :=
  decodeCmd 0x220000 = .ok .accStart ∧ operandReserved 0x22 ∧
  (∀ s : State, s.astate = .opened → exec .accStart s = .next (refusedWith .badState s)) ∧
  (∀ s : State, s.astate ≠ .opened → exec .accStart s = .next (answered 0
    { s with
      count := 0, timer := 0, ovf := false, vdone := false, crcok := false, short := false,
      astate := if s.expected = 0 ∨ s.timeout = 0 then .done else .opened,
      reason := if s.expected = 0 then .quota else if s.timeout = 0 then .tmo else .none }))

/-- `ACC.ABORT` closes an open window with `REASON` = `ABORT`, keeping `COUNT`, `TIMER`, `BUF` and `OVF`, and is a successful
no-op in `IDLE` and `DONE`; in the cycle of a byte and a tick the abort wins, the byte is lost and the tick not counted
(R125). -/
def Obligations.AbortClosesAnOpenWindow : Prop :=
  decodeCmd 0x230000 = .ok .accAbort ∧ operandReserved 0x23 ∧
  (∀ s : State, s.astate = .opened → exec .accAbort s = .next (answered 0 { s with astate := .done, reason := .abort })) ∧
  (∀ s : State, s.astate ≠ .opened → exec .accAbort s = .next (answered 0 s)) ∧
  (∀ (s : State) (rest : List Cycle) (b : Byte), s.astate = .opened →
    s.pending = ⟨false, some 0x230000, rxWord b, 1⟩ :: rest →
      step s = .next (answered 0 { s with pending := rest, astate := .done, reason := .abort }))

/-- `ACC.CLR` outside `OPEN` drops the frame and goes idle, keeping `BUF`, `EXPECTED`, `TIMEOUT`, `CRC`, `VCRC` and the error
record; in `OPEN` it is refused (R126). -/
def Obligations.ClearDropsTheFrame : Prop :=
  decodeCmd 0x240000 = .ok .accClr ∧ operandReserved 0x24 ∧
  (∀ s : State, s.astate = .opened → exec .accClr s = .next (refusedWith .badState s)) ∧
  (∀ s : State, s.astate ≠ .opened → exec .accClr s = .next (answered 0
    { s with
      count := 0, timer := 0, ovf := false, vdone := false, crcok := false, short := false,
      astate := .idle, reason := .none }))

/-- `VAL.RUN` on a frame of fewer than two bytes, and its refusal outside `DONE` (R110, corner case (1) and errors). -/
def Obligations.ValidationOfAShortFrame : Prop :=
  decodeCmd 0x100000 = .ok .valRun ∧ operandReserved 0x10 ∧
  (∀ s : State, s.astate ≠ .done → exec .valRun s = .next (refusedWith .badState s)) ∧
  (∀ s : State, s.astate = .done → s.count.toNat < 2 →
    exec .valRun s = .next (answered 0 { s with vcrc := 0xFFFF, crcok := false, short := true, vdone := true }))

/-- `VAL.RUN` on a frame of at least two bytes computes the CRC over the candidate frame less its last two bytes, compares it
with those two, low byte first, rejects a frame that lost bytes, writes `VCRC`, `CRCOK`, `SHORT`, `VDONE` and nothing else, and
answers the new `CRCOK`; with `OVF` = 0 that is `validate` of the frame (R110). -/
def Obligations.ValidationOfAFrame : Prop :=
  ∀ s : State, s.astate = .done → 2 ≤ s.count.toNat → s.count.toNat ≤ s.cfg.bufSize →
    ∃ (c : Half) (ok : Bool),
      c = crc16 ((List.range (s.count.toNat - 2)).map (Memory.read s.buf)) ∧
      (ok = true ↔ c.extractLsb' 0 8 = Memory.read s.buf (s.count.toNat - 2) ∧
        c.extractLsb' 8 8 = Memory.read s.buf (s.count.toNat - 1) ∧ s.ovf = false) ∧
      (s.ovf = false → ok = validate ((List.range s.count.toNat).map (Memory.read s.buf))) ∧
      exec .valRun s =
        .next (answered (if ok then 1 else 0) { s with vcrc := c, crcok := ok, short := false, vdone := true })

/-- The complete set of outcomes of a window, once it has closed and `VAL.RUN` has run, and that repeating `VAL.RUN` gives the
same state and response: R175's table row by row, `EXPECTED` being the quota the window closed under (R110 case
(6); R175, which the spec derives from R28, R110, R121 and R133; log entry 7). -/
def Obligations.OutcomesAreTheTables : Prop :=
  ∀ (i : Instr) (s t u : State), s.Inv → exec i s = .next t → t.astate = .done → (s.astate = .opened ∨ i = .accStart) →
    exec .valRun t = .next u →
    exec .valRun u = .next u ∧ u.reason = t.reason ∧ u.count = t.count ∧ u.ovf = t.ovf ∧ u.vdone = true ∧
    ((u.reason = .quota ∧ u.count = u.expected ∧ 2 ≤ u.count.toNat ∧ u.ovf = false ∧ u.short = false ∧
        u.crcok = validate (candidateFrame u)) ∨
      (u.reason = .quota ∧ u.count = u.expected ∧ u.count.toNat < 2 ∧ u.ovf = false ∧ u.short = true ∧ u.crcok = false) ∨
      ((u.reason = .tmo ∨ u.reason = .abort) ∧ u.count.toNat < 2 ∧ u.ovf = false ∧ u.short = true ∧ u.crcok = false) ∨
      ((u.reason = .tmo ∨ u.reason = .abort) ∧ 2 ≤ u.count.toNat ∧ u.count < u.expected ∧ u.ovf = false ∧
        u.short = false ∧ u.crcok = validate (candidateFrame u)) ∨
      ((u.reason = .tmo ∨ u.reason = .abort) ∧ u.count.toNat = u.cfg.bufSize ∧ u.ovf = true ∧ u.short = false ∧
        u.crcok = false))

/-! ## The events -/

/-- `RX.BYTE` outside a window is lost with no trace; inside one it is stored at index `COUNT` and counted while there is room,
else dropped with `OVF` set, restarts the timer when `TIMEOUT_RESTART` is true, and is followed by the close test; every
other byte of `BUF` and every other field keeps its value (R41, R133). -/
def Obligations.ReceivedByteIsAppendedOrDropped : Prop :=
  (∀ (b : Byte) (s : State), s.astate ≠ .opened → exec (.rxByte b) s = .next s) ∧
  (∀ (b : Byte) (s : State), s.astate = .opened → ∃ t, exec (.rxByte b) s = .next t ∧
    (s.count.toNat < s.cfg.bufSize →
      t.count = s.count + 1 ∧ t.ovf = s.ovf ∧ Memory.read t.buf s.count.toNat = b ∧
        ∀ a, a ≠ s.count.toNat → Memory.read t.buf a = Memory.read s.buf a) ∧
    (s.cfg.bufSize ≤ s.count.toNat → t.count = s.count ∧ t.ovf = true ∧ t.buf = s.buf) ∧
    t.timer = (if s.cfg.timeoutRestart then 0 else s.timer) ∧
    t.astate = (if t.expected ≤ t.count ∨ t.timeout ≤ t.timer then .done else .opened) ∧
    t.reason = (if t.expected ≤ t.count then .quota else if t.timeout ≤ t.timer then .tmo else s.reason) ∧
    t = { s with
      buf := t.buf, count := t.count, ovf := t.ovf, timer := t.timer, astate := t.astate, reason := t.reason })

/-- `TICK` outside a window does nothing; inside one it counts, is followed by the close test, and changes nothing but `TIMER`,
`ASTATE` and `REASON` (R134). -/
def Obligations.TickIsCountedInAWindow : Prop :=
  (∀ s : State, s.astate ≠ .opened → exec .tick s = .next s) ∧
  (∀ s : State, s.astate = .opened → exec .tick s = .next
    { s with
      timer := s.timer + 1,
      astate := if s.expected ≤ s.count ∨ s.timeout ≤ s.timer + 1 then .done else .opened,
      reason := if s.expected ≤ s.count then .quota else if s.timeout ≤ s.timer + 1 then .tmo else s.reason })

/-- In an open window of a state that meets the invariants, a byte closes it only by quota and then it holds exactly `EXPECTED`
bytes, which needs `EXPECTED` ≤ `BUF_SIZE`; a tick closes it only by timeout; neither counter overflows, each growing by exactly
1 as a number; and `OVF` = 1 means that the quota is out of reach (R14, R19, R28 (c), R133 case (3), R134, R138). -/
def Obligations.EventsCloseForTheirOwnReason : Prop :=
  (∀ (b : Byte) (s t : State), s.Inv → s.astate = .opened → exec (.rxByte b) s = .next t →
    (s.count.toNat < s.cfg.bufSize → t.count.toNat = s.count.toNat + 1) ∧
    (t.astate = .done →
      t.reason = .quota ∧ t.count = t.expected ∧ t.expected.toNat ≤ t.cfg.bufSize ∧ t.ovf = false)) ∧
  (∀ s t : State, s.Inv → s.astate = .opened → exec .tick s = .next t →
    t.timer.toNat = s.timer.toNat + 1 ∧ (t.astate = .done → t.reason = .tmo)) ∧
  (∀ s : State, s.Inv → s.astate = .opened → s.ovf = true → s.cfg.bufSize < s.expected.toNat)

/-! ## Rules of the whole machine -/

/-- `CRC` is written by `CRC.INIT`, by `CRC.UPD` and by reset, `VCRC` by `VAL.RUN` in `DONE` and by reset, and neither by anything
else a cycle can bring (R11, R12). -/
def Obligations.CrcRegistersAreWrittenOnlyByTheirCommands : Prop :=
  ∀ s t : State, step s = .next t →
    (nextCycle s).rst = true ∨
    ((t.crc = s.crc ∨ ((nextCycle s).cmd = some 0x010000 ∧ t.crc = 0xFFFF) ∨
        ∃ b : Byte, (nextCycle s).cmd = some (cmdWord 0x02 (b.setWidth 16)) ∧ t.crc = crcStep s.crc b) ∧
      (t.vcrc = s.vcrc ∨ ((nextCycle s).cmd = some 0x100000 ∧ s.astate = .done)))

/-- `EXPECTED` and `TIMEOUT` are written by `ACC.SETEXP` and `ACC.SETTMO`, only while no window is open, and by reset, and by
nothing else (R14, R15). -/
def Obligations.ConfigurationIsFrozenInAWindow : Prop :=
  ∀ s t : State, step s = .next t →
    (nextCycle s).rst = true ∨
    ((t.expected = s.expected ∨
        ∃ h : Half, (nextCycle s).cmd = some (cmdWord 0x20 h) ∧ s.astate ≠ .opened ∧ t.expected = h) ∧
      (t.timeout = s.timeout ∨
        ∃ h : Half, (nextCycle s).cmd = some (cmdWord 0x21 h) ∧ s.astate ≠ .opened ∧ t.timeout = h))

/-- `COUNT` and `TIMER` are set to 0 by `ACC.START` and `ACC.CLR` outside an open window; in one, `COUNT` grows by 1 with each
byte that finds it below `BUF_SIZE`, `TIMER` grows by 1 with each tick and goes back to 0 with each byte exactly when
`TIMEOUT_RESTART` is true; and no operation changes them otherwise (R13, R16). -/
def Obligations.CountersMoveOnlyAsStated : Prop :=
  ∀ (i : Instr) (s t : State), exec i s = .next t → (t.count, t.timer) = countersAfter s i

/-- The flags of a frame: `OVF` is set by each byte of an open window that finds the buffer full; `VDONE` is set, and `CRCOK` and
`SHORT` are written with the result of the validation, by `VAL.RUN` in `DONE`; all four are cleared by `ACC.START` and
`ACC.CLR` outside an open window; and no operation changes them otherwise (R19, R20, R21, R22). -/
def Obligations.FrameFlagsChangeOnlyAsStated : Prop :=
  ∀ (i : Instr) (s t : State), exec i s = .next t → (t.ovf, t.vdone, t.crcok, t.short) = flagsAfter s i

/-- `BUF` is written by `RX.BYTE` alone, at index `COUNT` alone, and only below `BUF_SIZE` in an open window; every other byte,
and all of `BUF` under every other operation, reads as before (R25, R41). -/
def Obligations.BufferIsWrittenOnlyAtCount : Prop :=
  ∀ (i : Instr) (s t : State), exec i s = .next t →
    (∀ a, Memory.read t.buf a = Memory.read s.buf a) ∨
    (∃ b, i = .rxByte b ∧ s.astate = .opened ∧ s.count.toNat < s.cfg.bufSize ∧ t.count = s.count + 1 ∧
      Memory.read t.buf s.count.toNat = b ∧ ∀ a, a ≠ s.count.toNat → Memory.read t.buf a = Memory.read s.buf a)

/-- R135's table is the whole of the block's control transfer: every operation takes `ASTATE` and `REASON` where the table
says, and leaves them unchanged where it says nothing (R135, which the spec derives from R17 and R121 to R134); `rst` takes them to `IDLE` and `NONE`. -/
def Obligations.TransitionsAreTheTables : Prop :=
  (∀ (i : Instr) (s t : State), s.Inv → exec i s = .next t → (t.astate, t.reason) = transition s i) ∧
  (∀ s t : State, (nextCycle s).rst = true → step s = .next t → t.astate = .idle ∧ t.reason = .none)

/-- In `DONE` the candidate frame is frozen: until `ACC.START` or `ACC.CLR` no operation changes `BUF`, `COUNT`, `TIMER`,
`OVF`, `ASTATE` or `REASON` (R17, R120, R207). -/
def Obligations.ClosedFrameIsFrozen : Prop :=
  ∀ (i : Instr) (s t : State), s.astate = .done → i ≠ .accStart → i ≠ .accClr → exec i s = .next t →
    t.buf = s.buf ∧ t.count = s.count ∧ t.timer = s.timer ∧ t.ovf = s.ovf ∧ t.astate = s.astate ∧ t.reason = s.reason

/-- The outputs are levels of `ASTATE`: `done` stays high until `ACC.START` or `ACC.CLR`, rises only with the close of a
window, and `open` and `done` are never high together (R177, R178). -/
def Obligations.DoneOutputIsALevel : Prop :=
  (∀ s : State, (doneOut s = true ↔ s.astate = .done) ∧ (openOut s = true ↔ s.astate = .opened)) ∧
  (∀ (i : Instr) (s t : State), exec i s = .next t → doneOut s = true → i ≠ .accStart → i ≠ .accClr → doneOut t = true) ∧
  (∀ (i : Instr) (s t : State), exec i s = .next t → doneOut s = false → doneOut t = true →
    i = .accStart ∨ (openOut s = true ∧ (i = .accAbort ∨ i = .tick ∨ ∃ b, i = .rxByte b)))

/-- The reset state meets the invariants: R28's, which the spec derives, and the one of log entry 7. -/
def Obligations.ResetMeetsTheInvariants : Prop := State.reset.Inv

/-- Every cycle keeps the invariants, R28's, which the spec derives, and the one of log entry 7, whatever it presents and whatever
the parameters are. -/
def Obligations.StepKeepsTheInvariants : Prop := ∀ s t : State, s.Inv → step s = .next t → t.Inv

/-- No cycle stops the block: from a state that meets the invariants every step goes on, whatever it presents
(93_implementation_defined.md: "every operation in every state has exactly one next state"). -/
def Obligations.EveryStepGoesOn : Prop := ∀ s : State, s.Inv → StepsOn s

/-- What `BUF` holds at and above `COUNT` cannot be observed: of two states that agree in everything else, one step gives
states that again agree, the response among their fields (R42, R201, U6). -/
def Obligations.BytesAboveCountAreUnobservable : Prop :=
  ∀ s s' t : State, SameBelowCount s s' → step s = .next t → ∃ t', step s' = .next t' ∧ SameBelowCount t t'

/-- With `TIMEOUT_RESTART` = false an open window closes no later than the tick that makes `TIMER` reach `TIMEOUT`, whatever
bytes arrive and whatever else the host does: some first part of any sequence of operations with that many ticks ends in
`DONE`, within those ticks; and a sequence without `ACC.START` and `ACC.CLR` ends there as a whole (R136, first statement, which
the spec derives from R121, R133 and R134). -/
def Obligations.FixedDeadlineIsHonoured : Prop :=
  (∀ (s : State) (ops : List Instr), s.Inv → s.astate = .opened → s.cfg.timeoutRestart = false →
    s.timeout.toNat ≤ s.timer.toNat + ops.count .tick →
    ∃ (pre suf : List Instr) (t : State), ops = pre ++ suf ∧ execAll pre s = .next t ∧ t.astate = .done ∧
      s.timer.toNat + pre.count .tick ≤ s.timeout.toNat) ∧
  (∀ (s : State) (ops : List Instr), s.Inv → s.astate = .opened → s.cfg.timeoutRestart = false →
    (∀ i ∈ ops, i ≠ .accStart ∧ i ≠ .accClr) → s.timeout.toNat ≤ s.timer.toNat + ops.count .tick →
    ∃ t, execAll ops s = .next t ∧ t.astate = .done)

/-- In either mode a window closes after enough consecutive ticks with no byte between; with `TIMEOUT_RESTART` = true and the
quota off, bytes that keep arriving before `TIMEOUT` ticks of silence keep it open without bound (R136, second statement, which the spec derives
from R121, R133 and R134). -/
def Obligations.SilenceModeClosesOnlyOnSilence : Prop :=
  (∀ (s : State) (n : Nat), s.Inv → s.astate = .opened → s.timeout.toNat ≤ s.timer.toNat + n →
    ∃ t, execAll (List.replicate n .tick) s = .next t ∧ t.astate = .done) ∧
  (∀ (s : State) (l : List (Nat × Byte)), s.Inv → s.astate = .opened → s.cfg.timeoutRestart = true → s.timer = 0 →
    s.cfg.bufSize < s.expected.toNat → (∀ p ∈ l, p.1 < s.timeout.toNat) →
    ∃ t, execAll (l.flatMap ticksThenByte) s = .next t ∧ t.astate = .opened ∧ t.timer = 0)

/-- `GEN.FRAME` answers the two CRC bytes of its body in wire order and changes nothing but `CRC`, which ends at the body's CRC
whatever it was before (R68, R95). -/
def Obligations.GenFrameAnswersTheBodysCrc : Prop :=
  ∀ (s : State) (body : List Byte),
    execAll (.crcInit :: body.map .crcUpd ++ [.crcRdlo]) s =
      .next (answered (crc16 body &&& 0x00FF) { s with crc := crc16 body }) ∧
    execAll (Pseudo.genFrame body).expand s = .next (answered (crc16 body >>> 8) { s with crc := crc16 body })

/-- `VAL.STREAM` answers `0x0000` exactly when the whole frame, CRC bytes included, is valid (R68, R86). -/
def Obligations.ValStreamAnswersTheResidue : Prop :=
  ∀ (s : State) (f : List Byte), 2 ≤ f.length →
    ∃ r, execAll (Pseudo.valStream f).expand s = .next (answered r { s with crc := r }) ∧ (r = 0 ↔ validate f = true)

/-- A whole reception, in either timeout mode: arm the window for the frame's length, receive the frame, with no tick or with
ticks before each byte that stay short of the timeout (together, or each silence by itself when `TIMEOUT_RESTART` is true),
validate it. The window closes by quota on the last byte, or at once for the empty frame; the candidate frame is the frame
received, `CRCOK` and the response are `validate` of it, and the generator's `CRC` and the error record are undisturbed. With a
timeout of 0 a nonempty frame is lost: the window closes at once, by timeout and empty (R68, R110, R120, R124, R133, R138). -/
def Obligations.ReceivedFrameIsValidated : Prop :=
  (∀ (s : State) (f : List Byte) (tmo : Half), s.Inv → s.astate ≠ .opened → f.length ≤ s.cfg.bufSize → (f = [] ∨ tmo ≠ 0) →
    ∃ t, execAll ((Pseudo.accArm (BitVec.ofNat 16 f.length) tmo).expand ++ (Pseudo.rxFrame f).expand ++ [.valRun]) s = .next t ∧
      ReceivedAndValidated s t f) ∧
  (∀ (s : State) (l : List (Nat × Byte)) (tmo : Half), s.Inv → s.astate ≠ .opened → l.length ≤ s.cfg.bufSize →
    (if s.cfg.timeoutRestart = true then ∀ p ∈ l, p.1 < tmo.toNat else l = [] ∨ (l.map Prod.fst).sum < tmo.toNat) →
    ∃ t, execAll ((Pseudo.accArm (BitVec.ofNat 16 l.length) tmo).expand ++ l.flatMap ticksThenByte ++ [.valRun]) s = .next t ∧
      ReceivedAndValidated s t (l.map Prod.snd)) ∧
  (∀ (s : State) (f : List Byte), s.Inv → s.astate ≠ .opened → f ≠ [] → f.length ≤ s.cfg.bufSize →
    ∃ t, execAll ((Pseudo.accArm (BitVec.ofNat 16 f.length) 0).expand ++ (Pseudo.rxFrame f).expand ++ [.valRun]) s = .next t ∧
      t.astate = .done ∧ t.reason = .tmo ∧ t.count = 0 ∧ t.ovf = false ∧ t.vdone = true ∧ t.crcok = false ∧ t.short = true ∧
      t.rsp = some ⟨false, 0⟩ ∧ t.crc = s.crc ∧ t.cmderr = s.cmderr ∧ t.lasterr = s.lasterr)
end

