-- ==== Sys2Proof/Laws/Operands.lean ====
section
/-! SUPPORT. The bit fields and the words they make: each field of a word made of fields is that field, and a word is the
word made of its fields. -/

namespace Sys2Proof.Machine

/-- The opcode of a word made of an opcode and an operand. -/
@[simp] theorem opField_cmdWord (op : Byte) (arg : Half) : opField (cmdWord op arg) = op := by
  unfold opField cmdWord
  ext i hi
  have h : 16 + i < 24 ∧ i < 24 := by omega
  simp [h, BitVec.getLsbD_eq_getElem hi]

/-- The operand of a word made of an opcode and an operand. -/
@[simp] theorem argField_cmdWord (op : Byte) (arg : Half) : argField (cmdWord op arg) = arg := by
  unfold argField cmdWord
  ext i hi
  simp [BitVec.getLsbD_eq_getElem, hi]
  omega

/-- A command word is its opcode and its operand (R60). -/
theorem cmdWord_fields (w : Word24) : cmdWord (opField w) (argField w) = w := by
  unfold cmdWord opField argField
  ext i hi
  by_cases h : i < 16
  · simp [BitVec.getLsbD_eq_getElem, hi, h]
  · simp [BitVec.getLsbD_eq_getElem, hi, h, show 16 + (i-16) = i by omega]
    omega

/-- The low byte of a widened byte is the byte. -/
@[simp] theorem loByte_zextByte (b : Byte) : loByte (zextByte b) = b := by
  unfold loByte zextByte
  ext i hi
  simp [BitVec.getLsbD_eq_getElem, hi]
  omega

/-- The high byte of a widened byte is 0. -/
@[simp] theorem hiByte_zextByte (b : Byte) : hiByte (zextByte b) = 0 := by
  unfold hiByte zextByte
  ext i hi
  simp

/-- A half whose high byte is 0 is its low byte, widened. -/
theorem zextByte_loByte {h : Half} (hh : hiByte h = 0) : zextByte (loByte h) = h := by
  unfold zextByte loByte
  ext i hi
  by_cases h8 : i < 8
  · simp [h8, hi]
  · have := congrArg (fun x => x.getLsbD (i-8)) hh
    simp [hiByte, show 8 + (i-8) = i by omega, hi, show i - 8 < 8 by omega] at this
    simp [h8, this]

/-- The strobe of a word that carries a byte. -/
@[simp] theorem rxValid_rxWord (b : Byte) : rxValid (rxWord b) = true := by
  unfold rxValid rxWord
  simp

/-- The byte of a word that carries it. -/
@[simp] theorem rxData_rxWord (b : Byte) : rxData (rxWord b) = b := by
  unfold rxData rxWord
  ext i hi
  simp
  have : i < 8 := hi
  interval_cases i <;> simp

/-- Nine bits whose strobe is 1 are the word of the byte they carry. -/
theorem rxWord_rxData {v : BitVec 9} (hv : rxValid v = true) : rxWord (rxData v) = v := by
  unfold rxValid at hv
  unfold rxWord rxData
  ext i hi
  have : i < 9 := hi
  interval_cases i <;> simp_all

/-- A word that carries a byte is that event (R66). -/
@[simp] theorem decodeRx_rxWord (b : Byte) : decodeRx (rxWord b) = some (.rxByte b) := by simp [decodeRx]

end Sys2Proof.Machine
end

