-- ==== Sys2Proof/Laws/Crc.lean ====
section
/-! SUPPORT. The algebra of the shift step (it is linear over XOR and loses nothing), the sequence form, and the frame taken
apart into its body and its last two bytes. -/

namespace Sys2Proof.Machine

/-- The shift step as one expression: the shifted register, XORed with the constant or with nothing. -/
theorem crcBit_eq (c : Half) : crcBit c = (c >>> 1) ^^^ (if c.getLsbD 0 then Config.crcPoly else 0) := by
  unfold crcBit
  split <;> simp

/-- The shift step is linear over XOR (R83's derivation). -/
theorem crcBit_xor (x y : Half) : crcBit (x ^^^ y) = crcBit x ^^^ crcBit y := by
  rw [crcBit_eq, crcBit_eq, crcBit_eq, BitVec.getLsbD_xor, BitVec.ushiftRight_xor_distrib]
  have twice : ∀ a b p : Half, a ^^^ p ^^^ (b ^^^ p) = a ^^^ b := fun a b p => by
    rw [BitVec.xor_assoc, BitVec.xor_comm b p, ← BitVec.xor_assoc p p b, BitVec.xor_self, BitVec.zero_xor]
  have moved : ∀ a b p : Half, a ^^^ b ^^^ p = a ^^^ p ^^^ b := fun a b p => by
    rw [BitVec.xor_assoc, BitVec.xor_comm b p, ← BitVec.xor_assoc]
  cases x.getLsbD 0 <;> cases y.getLsbD 0
  · simp
  · simp [BitVec.xor_assoc]
  · simpa using moved _ _ _
  · simp [twice]

/-- Zero is a fixed point of the shift step. -/
@[simp] theorem crcBit_zero : crcBit 0 = 0 := by decide

/-- The shift step sends only zero to zero (R86's bijection argument: bit 15 of the constant is 1). -/
theorem crcBit_eq_zero {c : Half} (h : crcBit c = 0) : c = 0 := by
  rw [crcBit_eq] at h
  have h15 := congrArg (fun x => x.getLsbD 15) h
  have h0 : c.getLsbD 0 = false := by
    by_contra hc
    rw [if_pos (by simpa using hc)] at h15
    simp at h15
  rw [h0] at h
  ext i hi
  have hi' : i < 16 := hi
  rcases Nat.eq_zero_or_pos i with rfl | hpos
  · simpa [BitVec.getLsbD_eq_getElem] using h0
  · have := congrArg (fun x => x.getLsbD (i - 1)) h
    simp [show 1 + (i - 1) = i by omega, BitVec.getLsbD_eq_getElem hi] at this
    simpa using this

/-- A shift step on a value whose low bit is 0 only shifts. -/
theorem crcBit_of_even {c : Half} (h : c.getLsbD 0 = false) : crcBit c = c >>> 1 := by
  unfold crcBit
  rw [h]
  rfl

@[simp] theorem crcShifts_zero (c : Half) : crcShifts 0 c = c := rfl

/-- Shift steps add up. -/
theorem crcShifts_add (m n : Nat) (c : Half) : crcShifts (m + n) c = crcShifts n (crcShifts m c) := by
  induction m generalizing c with
  | zero => simp
  | succ m ih => rw [Nat.succ_add]; exact ih (crcBit c)

/-- Any number of shift steps is linear over XOR. -/
theorem crcShifts_xor (n : Nat) (x y : Half) : crcShifts n (x ^^^ y) = crcShifts n x ^^^ crcShifts n y := by
  induction n generalizing x y with
  | zero => rfl
  | succ n ih => simp only [crcShifts, crcBit_xor, ih]

/-- Shift steps of zero are zero. -/
@[simp] theorem crcShifts_of_zero (n : Nat) : crcShifts n 0 = 0 := by
  induction n with
  | zero => rfl
  | succ n ih => simp only [crcShifts, crcBit_zero, ih]

/-- Any number of shift steps sends only zero to zero. -/
theorem crcShifts_eq_zero {n : Nat} {c : Half} (h : crcShifts n c = 0) : c = 0 := by
  induction n generalizing c with
  | zero => exact h
  | succ n ih => exact crcBit_eq_zero (ih h)

/-- Shift steps whose outgoing bits are all 0 only shift. -/
theorem crcShifts_of_low_zero (n : Nat) (c : Half) (h : ∀ i, i < n → c.getLsbD i = false) :
    crcShifts n c = c >>> n := by
  induction n generalizing c with
  | zero => simp
  | succ n ih =>
    rw [crcShifts, crcBit_of_even (h 0 (by omega)), ih, ← BitVec.shiftRight_add, Nat.add_comm]
    intro i hi
    rw [BitVec.getLsbD_ushiftRight]
    exact h (1 + i) (by omega)

/-- The byte step on the register and on the byte apart. -/
theorem crcStep_eq (c : Half) (b : Byte) : crcStep c b = crcShifts 8 c ^^^ crcShifts 8 (zextByte b) :=
  crcShifts_xor 8 c (zextByte b)

/-- The byte step is linear over XOR in register and byte together. -/
theorem crcStep_xor (c d : Half) (a b : Byte) : crcStep (c ^^^ d) (a ^^^ b) = crcStep c a ^^^ crcStep d b := by
  have h : zextByte (a ^^^ b) = zextByte a ^^^ zextByte b := by
    unfold zextByte
    exact BitVec.setWidth_xor
  rw [crcStep_eq, crcStep_eq, crcStep_eq, h, crcShifts_xor, crcShifts_xor]
  ac_rfl

/-- The fixed point behind R96. -/
@[simp] theorem crcStep_zero_zero : crcStep 0 0 = 0 := by decide

/-- A byte widened is zero only if the byte is. -/
theorem zextByte_eq_zero {b : Byte} (h : zextByte b = 0) : b = 0 := by
  have := congrArg loByte h
  rw [loByte_zextByte] at this
  exact this

/-- A nonzero byte takes a zero register to a nonzero one. -/
theorem crcStep_zero_left {b : Byte} (h : crcStep 0 b = 0) : b = 0 := by
  rw [crcStep_eq, crcShifts_of_zero, show (0 : Half) ^^^ crcShifts 8 (zextByte b) = crcShifts 8 (zextByte b) from
    BitVec.zero_xor] at h
  exact zextByte_eq_zero (crcShifts_eq_zero h)

/-- A zero byte keeps a nonzero register nonzero. -/
theorem crcStep_zero_right {c : Half} (h : crcStep c 0 = 0) : c = 0 := by
  have hz : zextByte 0 = 0 := by decide
  rw [crcStep_eq, hz, crcShifts_of_zero, show crcShifts 8 c ^^^ (0 : Half) = crcShifts 8 c from BitVec.xor_zero] at h
  exact crcShifts_eq_zero h

@[simp] theorem crcFrom_nil (c : Half) : crcFrom c [] = c := rfl
@[simp] theorem crcFrom_cons (c : Half) (b : Byte) (s : List Byte) : crcFrom c (b :: s) = crcFrom (crcStep c b) s := rfl

/-- The loop of R82 is a left fold. -/
theorem crcFrom_eq_foldl (c : Half) (s : List Byte) : crcFrom c s = s.foldl crcStep c := by
  induction s generalizing c with
  | nil => rfl
  | cons b s ih => exact ih (crcStep c b)

/-- A sequence may be fed in pieces. -/
theorem crcFrom_append (c : Half) (s t : List Byte) : crcFrom c (s ++ t) = crcFrom (crcFrom c s) t := by
  simp only [crcFrom_eq_foldl, List.foldl_append]

@[simp] theorem crcBytes_length (c : Half) : (crcBytes c).length = 2 := rfl

@[simp] theorem appendCrc_length (s : List Byte) : (appendCrc s).length = s.length + 2 := by simp [appendCrc]

/-- A frame is its body and its last two bytes. -/
theorem frame_split {f : List Byte} (h : 2 ≤ f.length) :
    f = frameBody f ++ [f.getD (f.length - 2) 0, f.getD (f.length - 1) 0] := by
  have hd : f.drop (f.length - 2) = [f.getD (f.length - 2) 0, f.getD (f.length - 1) 0] := by
    rw [List.drop_eq_getElem_cons (by omega), List.drop_eq_getElem_cons (by omega), List.drop_eq_nil_of_le (by omega)]
    simp [List.getD_eq_getElem?_getD, show f.length - 2 + 1 = f.length - 1 by omega,
      show f.length - 2 < f.length by omega, show f.length - 1 < f.length by omega]
  unfold frameBody
  rw [← hd, List.take_append_drop]

/-- The body of a body with two more bytes. -/
@[simp] theorem frameBody_append_two (s : List Byte) (x y : Byte) : frameBody (s ++ [x, y]) = s := by
  simp [frameBody]

/-- The trailer test on a body with two more bytes. -/
@[simp] theorem trailerMatches_append_two (c : Half) (s : List Byte) (x y : Byte) :
    trailerMatches c (s ++ [x, y]) = (loByte c == x && hiByte c == y) := by
  simp [trailerMatches, List.getD_eq_getElem?_getD]

/-- `validate` on a body with two more bytes. -/
theorem validate_append_two (s : List Byte) (x y : Byte) :
    validate (s ++ [x, y]) = (loByte (crc16 s) == x && hiByte (crc16 s) == y) := by
  simp [validate]

/-- Eight shift steps of a value with a zero low byte give its high byte, widened (R83, R86). -/
theorem crcShifts_high (e : Byte) : crcShifts 8 (zextByte e <<< 8) = zextByte e := by
  have hlow : ∀ i, i < 8 → (zextByte e <<< 8).getLsbD i = false := by
    intro i hi
    simp [hi]
  rw [crcShifts_of_low_zero 8 _ hlow]
  ext i hi
  have hi' : i < 16 := hi
  by_cases h8 : i < 8
  · simp [zextByte, BitVec.getLsbD_eq_getElem, show 8 + i < 16 by omega]
  · have hge : e.getLsbD i = false := BitVec.getLsbD_of_ge e i (by omega)
    simp [zextByte, hi', hge, show ¬ 8 + i < 16 by omega]

/-- Two bytes fed to a zero register leave it zero only if both are zero (R86's bijection argument on 16 bits). -/
theorem crcStep_zero_two {d e : Byte} (h : crcStep (crcStep 0 d) e = 0) : d = 0 ∧ e = 0 := by
  have h1 : crcShifts 8 (crcShifts 8 (zextByte d ^^^ zextByte e <<< 8)) = 0 := by
    rw [crcShifts_xor, crcShifts_high]
    simpa [crcStep] using h
  have h2 := crcShifts_eq_zero (crcShifts_eq_zero h1)
  have hd : d = 0 := by
    have := congrArg loByte h2
    ext i hi
    have hb := congrArg (fun x => x.getLsbD i) this
    have hi' : i < 8 := hi
    simp [loByte, zextByte, hi', BitVec.getLsbD_eq_getElem, show i < 16 by omega] at hb
    simpa using hb
  refine ⟨hd, ?_⟩
  have := congrArg hiByte h2
  ext i hi
  have hb := congrArg (fun x => x.getLsbD i) this
  have hi' : i < 8 := hi
  simp [hiByte, zextByte, hd, hi', BitVec.getLsbD_eq_getElem, show 8 + i < 16 by omega] at hb
  simpa using hb

/-- A half is its two bytes. -/
theorem half_eq_bytes (c : Half) : c = zextByte (loByte c) ^^^ zextByte (hiByte c) <<< 8 := by
  ext i hi
  have hi' : i < 16 := hi
  by_cases h8 : i < 8
  · simp [zextByte, loByte, h8, hi']
  · have hge : (loByte c).getLsbD i = false := BitVec.getLsbD_of_ge _ i (by omega)
    simp only [BitVec.getElem_xor, zextByte, BitVec.getElem_setWidth, hge, Bool.false_xor]
    simp [hiByte, h8, hi', BitVec.getLsbD_eq_getElem, show i - 8 < 8 by omega, show 8 + (i - 8) = i by omega]

/-- A register fed its own two bytes, low byte first, ends at zero (R86 (b)). -/
theorem crcStep_own_bytes (c : Half) : crcStep (crcStep c (loByte c)) (hiByte c) = 0 := by
  have h : c ^^^ zextByte (loByte c) = zextByte (hiByte c) <<< 8 := by
    have hc := half_eq_bytes c
    calc c ^^^ zextByte (loByte c)
        = zextByte (loByte c) ^^^ zextByte (hiByte c) <<< 8 ^^^ zextByte (loByte c) := by rw [← hc]
      _ = zextByte (hiByte c) <<< 8 := by
        rw [BitVec.xor_comm (zextByte (loByte c)), BitVec.xor_assoc, BitVec.xor_self, BitVec.xor_zero]
  have h1 : crcStep c (loByte c) = zextByte (hiByte c) := by rw [crcStep, h, crcShifts_high]
  rw [h1, crcStep, BitVec.xor_self]
  exact crcShifts_of_zero 8

/-- Two bytes that are not a register's own leave it nonzero (R86 (b), the converse). -/
theorem crcStep_two_eq_zero {c : Half} {x y : Byte} :
    crcStep (crcStep c x) y = 0 ↔ loByte c = x ∧ hiByte c = y := by
  constructor
  · intro h
    have hx : x = loByte c ^^^ (loByte c ^^^ x) := by rw [← BitVec.xor_assoc, BitVec.xor_self, BitVec.zero_xor]
    have hy : y = hiByte c ^^^ (hiByte c ^^^ y) := by rw [← BitVec.xor_assoc, BitVec.xor_self, BitVec.zero_xor]
    have h1 : crcStep c x = crcStep c (loByte c) ^^^ crcStep 0 (loByte c ^^^ x) := by
      rw [← crcStep_xor, ← hx]
      simp
    rw [h1, hy, crcStep_xor, crcStep_own_bytes] at h
    have := crcStep_zero_two (by simpa using h)
    exact ⟨BitVec.xor_eq_zero_iff.mp this.1, BitVec.xor_eq_zero_iff.mp this.2⟩
  · rintro ⟨rfl, rfl⟩
    exact crcStep_own_bytes c

/-- Feeding a register and feeding a difference are independent: the whole loop is linear in the register. -/
theorem crcFrom_xor (s : List Byte) (x y : Half) : crcFrom (x ^^^ y) s = crcFrom x s ^^^ crcFrom y (s.map fun _ => 0) := by
  induction s generalizing x y with
  | nil => rfl
  | cons b s ih =>
    have h : crcStep (x ^^^ y) b = crcStep x b ^^^ crcStep y 0 := by
      rw [← crcStep_xor]
      simp
    simp only [crcFrom_cons, List.map_cons, h, ih]

/-- Zero bytes take a register to zero only from zero. -/
theorem crcFrom_zeros_eq_zero {s : List Byte} {c : Half} (h : crcFrom c (s.map fun _ => 0) = 0) : c = 0 := by
  induction s generalizing c with
  | nil => exact h
  | cons b s ih => exact crcStep_zero_right (ih h)

/-- An error pattern keeps the length of the frame. -/
@[simp] theorem corruptAt_length (i : Nat) (e f : List Byte) : (corruptAt i e f).length = f.length := by
  induction f generalizing i e with
  | nil => cases e <;> cases i <;> rfl
  | cons x f ih => cases e <;> cases i <;> simp [corruptAt, ih]

/-- An empty pattern changes nothing. -/
@[simp] theorem corruptAt_nil (i : Nat) (f : List Byte) : corruptAt i [] f = f := by cases i <;> cases f <;> rfl

/-- A pattern at the end of a first part falls on what follows it. -/
theorem corruptAt_append (p e q : List Byte) : corruptAt p.length e (p ++ q) = p ++ corruptAt 0 e q := by
  induction p with
  | nil => rfl
  | cons x p ih => cases e <;> simp_all [corruptAt]

end Sys2Proof.Machine
end

