-- ==== Sys2Proof/Laws/Memory.lean ====
section
/-! SUPPORT. The buffer's laws: a read after a write, the canonical form and the bound kept by a write, and that canonical
buffers that read alike are equal. -/

namespace Sys2Proof.Machine

/-- A listed index reads as its byte, any other as the rest of the list says. -/
theorem Memory.read_cons (a : Nat) (b : Byte) (m : Memory) (i : Nat) :
    Memory.read ((a, b) :: m) i = if i = a then b else Memory.read m i := rfl

/-- An erased index reads as unlisted, any other as before. -/
theorem Memory.read_erase (m : Memory) (i j : Nat) :
    Memory.read (Memory.erase m i) j = if j = i then Memory.unlisted else Memory.read m j := by
  induction m with
  | nil => simp [Memory.erase, Memory.read]
  | cons c m ih =>
    obtain ⟨a, b⟩ := c
    by_cases hi : i = a
    · rw [Memory.erase, if_pos hi, ih, Memory.read_cons, ← hi]
      split <;> rfl
    · rw [Memory.erase, if_neg hi, Memory.read_cons, Memory.read_cons, ih]
      by_cases hj : j = a
      · rw [if_pos hj, if_pos hj, if_neg (by omega)]
      · rw [if_neg hj, if_neg hj]

/-- An inserted index that was not listed reads as its byte, any other as before. -/
theorem Memory.read_insert_erase (m : Memory) (i : Nat) (v : Byte) (j : Nat) :
    Memory.read (Memory.insert (Memory.erase m i) i v) j = if j = i then v else Memory.read m j := by
  induction m with
  | nil => simp [Memory.erase, Memory.insert, Memory.read]
  | cons c m ih =>
    obtain ⟨a, b⟩ := c
    by_cases hi : i = a
    · rw [Memory.erase, if_pos hi, ih, Memory.read_cons, ← hi]
      split <;> rfl
    · rw [Memory.erase, if_neg hi, Memory.insert]
      by_cases hlt : i < a
      · rw [if_pos hlt, Memory.read_cons, Memory.read_cons, Memory.read_cons, Memory.read_erase]
        by_cases hj : j = i
        · rw [if_pos hj, if_pos hj]
        · rw [if_neg hj, if_neg hj, if_neg hj]
      · rw [if_neg hlt, Memory.read_cons, Memory.read_cons, ih]
        by_cases hj : j = a
        · rw [if_pos hj, if_pos hj, if_neg (by omega)]
        · rw [if_neg hj, if_neg hj]

/-- A read after a write, at every index. -/
theorem Memory.read_write (m : Memory) (i : Nat) (v : Byte) (j : Nat) :
    Memory.read (Memory.write m i v) j = if j = i then v else Memory.read m j := by
  unfold Memory.write
  split
  next hv => rw [Memory.read_erase, hv]
  next => exact Memory.read_insert_erase m i v j

/-- A read of the byte just written. -/
@[simp] theorem Memory.read_write_self (m : Memory) (i : Nat) (v : Byte) :
    Memory.read (Memory.write m i v) i = v := by rw [Memory.read_write, if_pos rfl]

/-- A read anywhere else. -/
theorem Memory.read_write_other (m : Memory) {i j : Nat} (v : Byte) (hj : j ≠ i) :
    Memory.read (Memory.write m i v) j = Memory.read m j := by rw [Memory.read_write, if_neg hj]

/-- The form from a higher bound holds from a lower one. -/
theorem Memory.wfFrom_mono {m : Memory} {lo lo' : Nat} (h : Memory.wfFrom lo m = true) (hl : lo' ≤ lo) :
    Memory.wfFrom lo' m = true := by
  cases m with
  | nil => rfl
  | cons c m =>
    obtain ⟨a, b⟩ := c
    simp only [Memory.wfFrom, Bool.and_eq_true, decide_eq_true_eq] at h ⊢
    exact ⟨⟨by omega, h.1.2⟩, h.2⟩

/-- Erasing keeps the form. -/
theorem Memory.wfFrom_erase {m : Memory} {lo : Nat} (h : Memory.wfFrom lo m = true) (i : Nat) :
    Memory.wfFrom lo (Memory.erase m i) = true := by
  induction m generalizing lo with
  | nil => rfl
  | cons c m ih =>
    obtain ⟨a, b⟩ := c
    simp only [Memory.wfFrom, Bool.and_eq_true, decide_eq_true_eq] at h
    simp only [Memory.erase]
    split
    · exact Memory.wfFrom_mono (ih h.2) (by omega)
    · simp only [Memory.wfFrom, Bool.and_eq_true, decide_eq_true_eq]
      exact ⟨h.1, ih h.2⟩

/-- Inserting a byte that is not the unlisted one at an index that was erased keeps the form. -/
theorem Memory.wfFrom_insert_erase {m : Memory} {lo i : Nat} (h : Memory.wfFrom lo m = true) (hi : lo ≤ i) {v : Byte}
    (hv : v ≠ Memory.unlisted) : Memory.wfFrom lo (Memory.insert (Memory.erase m i) i v) = true := by
  induction m generalizing lo with
  | nil => simp [Memory.erase, Memory.insert, Memory.wfFrom, hv, hi]
  | cons c m ih =>
    obtain ⟨a, b⟩ := c
    simp only [Memory.wfFrom, Bool.and_eq_true, decide_eq_true_eq] at h
    by_cases he : i = a
    · rw [Memory.erase, if_pos he]
      exact ih (Memory.wfFrom_mono h.2 (by omega)) hi
    · rw [Memory.erase, if_neg he, Memory.insert]
      split
      · simp only [Memory.wfFrom, Bool.and_eq_true, decide_eq_true_eq]
        exact ⟨⟨hi, hv⟩, ⟨by omega, h.1.2⟩, Memory.wfFrom_erase h.2 i⟩
      · simp only [Memory.wfFrom, Bool.and_eq_true, decide_eq_true_eq]
        exact ⟨h.1, ih h.2 (by omega)⟩

/-- A write keeps the buffer canonical. -/
theorem Memory.wf_write {m : Memory} (h : Memory.wf m = true) (i : Nat) (v : Byte) :
    Memory.wf (Memory.write m i v) = true := by
  unfold Memory.write
  split
  · exact Memory.wfFrom_erase h i
  next hv => exact Memory.wfFrom_insert_erase h (Nat.zero_le i) hv

/-- Erasing keeps the bound. -/
theorem Memory.below_erase {m : Memory} {n : Nat} (h : Memory.below n m = true) (i : Nat) :
    Memory.below n (Memory.erase m i) = true := by
  induction m with
  | nil => rfl
  | cons c m ih =>
    obtain ⟨a, b⟩ := c
    simp only [Memory.below, Bool.and_eq_true, decide_eq_true_eq] at h
    simp only [Memory.erase]
    split
    · exact ih h.2
    · simp only [Memory.below, Bool.and_eq_true, decide_eq_true_eq]
      exact ⟨h.1, ih h.2⟩

/-- Inserting below the bound keeps the bound. -/
theorem Memory.below_insert {m : Memory} {n i : Nat} (h : Memory.below n m = true) (hi : i < n) (v : Byte) :
    Memory.below n (Memory.insert m i v) = true := by
  induction m with
  | nil => simp [Memory.insert, Memory.below, hi]
  | cons c m ih =>
    obtain ⟨a, b⟩ := c
    simp only [Memory.below, Bool.and_eq_true, decide_eq_true_eq] at h
    simp only [Memory.insert]
    split
    · simp [Memory.below, hi, h]
    · simp [Memory.below, h, ih]

/-- A write below the bound keeps the bound. -/
theorem Memory.below_write {m : Memory} {n i : Nat} (h : Memory.below n m = true) (hi : i < n) (v : Byte) :
    Memory.below n (Memory.write m i v) = true := by
  unfold Memory.write
  split
  · exact Memory.below_erase h i
  · exact Memory.below_insert (Memory.below_erase h i) hi v

/-- Below every listed index the buffer reads as unlisted. -/
theorem Memory.read_of_lt {m : Memory} {lo i : Nat} (h : Memory.wfFrom lo m = true) (hi : i < lo) :
    Memory.read m i = Memory.unlisted := by
  induction m generalizing lo with
  | nil => rfl
  | cons c m ih =>
    obtain ⟨a, b⟩ := c
    simp only [Memory.wfFrom, Bool.and_eq_true, decide_eq_true_eq] at h
    rw [Memory.read_cons, if_neg (by omega)]
    exact ih h.2 (by omega)

/-- Canonical buffers that read alike at every index are equal lists. -/
theorem Memory.eq_of_read_eq {m m' : Memory} {lo : Nat} (h : Memory.wfFrom lo m = true) (h' : Memory.wfFrom lo m' = true)
    (hr : ∀ i, Memory.read m i = Memory.read m' i) : m = m' := by
  induction m generalizing m' lo with
  | nil =>
    cases m' with
    | nil => rfl
    | cons c m' =>
      obtain ⟨a, b⟩ := c
      simp only [Memory.wfFrom, Bool.and_eq_true, decide_eq_true_eq] at h'
      have := hr a
      rw [Memory.read_cons, if_pos rfl] at this
      exact absurd this.symm h'.1.2
  | cons c m ih =>
    obtain ⟨a, b⟩ := c
    have hw := h
    simp only [Memory.wfFrom, Bool.and_eq_true, decide_eq_true_eq] at h
    cases m' with
    | nil =>
      have := hr a
      rw [Memory.read_cons, if_pos rfl] at this
      exact absurd this h.1.2
    | cons c' m' =>
      obtain ⟨a', b'⟩ := c'
      have hw' := h'
      simp only [Memory.wfFrom, Bool.and_eq_true, decide_eq_true_eq] at h'
      have heq : a = a' := by
        rcases Nat.lt_trichotomy a a' with hlt | he | hlt
        · have h1 := hr a
          rw [Memory.read_cons, if_pos rfl, Memory.read_cons, if_neg (by omega),
            Memory.read_of_lt h'.2 (by omega)] at h1
          exact absurd h1 h.1.2
        · exact he
        · have h1 := hr a'
          rw [Memory.read_cons, if_neg (by omega), Memory.read_cons, if_pos rfl,
            Memory.read_of_lt h.2 (by omega)] at h1
          exact absurd h1.symm h'.1.2
      subst heq
      have hb : b = b' := by simpa [Memory.read_cons] using hr a
      rw [hb, ih h.2 h'.2 fun i => ?_]
      have h1 := hr i
      rw [Memory.read_cons, Memory.read_cons] at h1
      by_cases hi : i = a
      · rw [Memory.read_of_lt h.2 (by omega), Memory.read_of_lt h'.2 (by omega)]
      · rwa [if_neg hi, if_neg hi] at h1

end Sys2Proof.Machine
end

