-- ==== Sys2Proof/Laws/State.lean ====
section
/-! SUPPORT. One lemma per field per named update of the state, true by `rfl`: no later proof unfolds a record update. -/

namespace Sys2Proof.Machine

@[simp] theorem respond_toArch (v : Half) (s : State) : (respond v s).toArch = s.toArch := rfl
@[simp] theorem respond_crc (v : Half) (s : State) : (respond v s).crc = s.crc := rfl
@[simp] theorem respond_vcrc (v : Half) (s : State) : (respond v s).vcrc = s.vcrc := rfl
@[simp] theorem respond_buf (v : Half) (s : State) : (respond v s).buf = s.buf := rfl
@[simp] theorem respond_count (v : Half) (s : State) : (respond v s).count = s.count := rfl
@[simp] theorem respond_expected (v : Half) (s : State) : (respond v s).expected = s.expected := rfl
@[simp] theorem respond_timeout (v : Half) (s : State) : (respond v s).timeout = s.timeout := rfl
@[simp] theorem respond_timer (v : Half) (s : State) : (respond v s).timer = s.timer := rfl
@[simp] theorem respond_astate (v : Half) (s : State) : (respond v s).astate = s.astate := rfl
@[simp] theorem respond_reason (v : Half) (s : State) : (respond v s).reason = s.reason := rfl
@[simp] theorem respond_ovf (v : Half) (s : State) : (respond v s).ovf = s.ovf := rfl
@[simp] theorem respond_vdone (v : Half) (s : State) : (respond v s).vdone = s.vdone := rfl
@[simp] theorem respond_crcok (v : Half) (s : State) : (respond v s).crcok = s.crcok := rfl
@[simp] theorem respond_short (v : Half) (s : State) : (respond v s).short = s.short := rfl
@[simp] theorem respond_cmderr (v : Half) (s : State) : (respond v s).cmderr = s.cmderr := rfl
@[simp] theorem respond_lasterr (v : Half) (s : State) : (respond v s).lasterr = s.lasterr := rfl
@[simp] theorem respond_cfg (v : Half) (s : State) : (respond v s).cfg = s.cfg := rfl
@[simp] theorem respond_rsp (v : Half) (s : State) : (respond v s).rsp = some ⟨false, v⟩ := rfl
@[simp] theorem respond_pending (v : Half) (s : State) : (respond v s).pending = s.pending := rfl

@[simp] theorem raiseCmdError_crc (e : CmdError) (s : State) : (raiseCmdError e s).crc = s.crc := rfl
@[simp] theorem raiseCmdError_vcrc (e : CmdError) (s : State) : (raiseCmdError e s).vcrc = s.vcrc := rfl
@[simp] theorem raiseCmdError_buf (e : CmdError) (s : State) : (raiseCmdError e s).buf = s.buf := rfl
@[simp] theorem raiseCmdError_count (e : CmdError) (s : State) : (raiseCmdError e s).count = s.count := rfl
@[simp] theorem raiseCmdError_expected (e : CmdError) (s : State) : (raiseCmdError e s).expected = s.expected := rfl
@[simp] theorem raiseCmdError_timeout (e : CmdError) (s : State) : (raiseCmdError e s).timeout = s.timeout := rfl
@[simp] theorem raiseCmdError_timer (e : CmdError) (s : State) : (raiseCmdError e s).timer = s.timer := rfl
@[simp] theorem raiseCmdError_astate (e : CmdError) (s : State) : (raiseCmdError e s).astate = s.astate := rfl
@[simp] theorem raiseCmdError_reason (e : CmdError) (s : State) : (raiseCmdError e s).reason = s.reason := rfl
@[simp] theorem raiseCmdError_ovf (e : CmdError) (s : State) : (raiseCmdError e s).ovf = s.ovf := rfl
@[simp] theorem raiseCmdError_vdone (e : CmdError) (s : State) : (raiseCmdError e s).vdone = s.vdone := rfl
@[simp] theorem raiseCmdError_crcok (e : CmdError) (s : State) : (raiseCmdError e s).crcok = s.crcok := rfl
@[simp] theorem raiseCmdError_short (e : CmdError) (s : State) : (raiseCmdError e s).short = s.short := rfl
@[simp] theorem raiseCmdError_cmderr (e : CmdError) (s : State) : (raiseCmdError e s).cmderr = true := rfl
@[simp] theorem raiseCmdError_lasterr (e : CmdError) (s : State) : (raiseCmdError e s).lasterr = some e := rfl
@[simp] theorem raiseCmdError_cfg (e : CmdError) (s : State) : (raiseCmdError e s).cfg = s.cfg := rfl
@[simp] theorem raiseCmdError_rsp (e : CmdError) (s : State) : (raiseCmdError e s).rsp = some ⟨true, (errorCode e).setWidth 16⟩ := rfl
@[simp] theorem raiseCmdError_pending (e : CmdError) (s : State) : (raiseCmdError e s).pending = s.pending := rfl

@[simp] theorem clearCmdError_crc (s : State) : (clearCmdError s).crc = s.crc := rfl
@[simp] theorem clearCmdError_vcrc (s : State) : (clearCmdError s).vcrc = s.vcrc := rfl
@[simp] theorem clearCmdError_buf (s : State) : (clearCmdError s).buf = s.buf := rfl
@[simp] theorem clearCmdError_count (s : State) : (clearCmdError s).count = s.count := rfl
@[simp] theorem clearCmdError_expected (s : State) : (clearCmdError s).expected = s.expected := rfl
@[simp] theorem clearCmdError_timeout (s : State) : (clearCmdError s).timeout = s.timeout := rfl
@[simp] theorem clearCmdError_timer (s : State) : (clearCmdError s).timer = s.timer := rfl
@[simp] theorem clearCmdError_astate (s : State) : (clearCmdError s).astate = s.astate := rfl
@[simp] theorem clearCmdError_reason (s : State) : (clearCmdError s).reason = s.reason := rfl
@[simp] theorem clearCmdError_ovf (s : State) : (clearCmdError s).ovf = s.ovf := rfl
@[simp] theorem clearCmdError_vdone (s : State) : (clearCmdError s).vdone = s.vdone := rfl
@[simp] theorem clearCmdError_crcok (s : State) : (clearCmdError s).crcok = s.crcok := rfl
@[simp] theorem clearCmdError_short (s : State) : (clearCmdError s).short = s.short := rfl
@[simp] theorem clearCmdError_cmderr (s : State) : (clearCmdError s).cmderr = false := rfl
@[simp] theorem clearCmdError_lasterr (s : State) : (clearCmdError s).lasterr = none := rfl
@[simp] theorem clearCmdError_cfg (s : State) : (clearCmdError s).cfg = s.cfg := rfl
@[simp] theorem clearCmdError_rsp (s : State) : (clearCmdError s).rsp = s.rsp := rfl
@[simp] theorem clearCmdError_pending (s : State) : (clearCmdError s).pending = s.pending := rfl

@[simp] theorem storeByte_crc (b : Byte) (s : State) : (storeByte b s).crc = s.crc := rfl
@[simp] theorem storeByte_vcrc (b : Byte) (s : State) : (storeByte b s).vcrc = s.vcrc := rfl
@[simp] theorem storeByte_buf (b : Byte) (s : State) : (storeByte b s).buf = Memory.write s.buf s.count.toNat b := rfl
@[simp] theorem storeByte_count (b : Byte) (s : State) : (storeByte b s).count = s.count + 1 := rfl
@[simp] theorem storeByte_expected (b : Byte) (s : State) : (storeByte b s).expected = s.expected := rfl
@[simp] theorem storeByte_timeout (b : Byte) (s : State) : (storeByte b s).timeout = s.timeout := rfl
@[simp] theorem storeByte_timer (b : Byte) (s : State) : (storeByte b s).timer = s.timer := rfl
@[simp] theorem storeByte_astate (b : Byte) (s : State) : (storeByte b s).astate = s.astate := rfl
@[simp] theorem storeByte_reason (b : Byte) (s : State) : (storeByte b s).reason = s.reason := rfl
@[simp] theorem storeByte_ovf (b : Byte) (s : State) : (storeByte b s).ovf = s.ovf := rfl
@[simp] theorem storeByte_vdone (b : Byte) (s : State) : (storeByte b s).vdone = s.vdone := rfl
@[simp] theorem storeByte_crcok (b : Byte) (s : State) : (storeByte b s).crcok = s.crcok := rfl
@[simp] theorem storeByte_short (b : Byte) (s : State) : (storeByte b s).short = s.short := rfl
@[simp] theorem storeByte_cmderr (b : Byte) (s : State) : (storeByte b s).cmderr = s.cmderr := rfl
@[simp] theorem storeByte_lasterr (b : Byte) (s : State) : (storeByte b s).lasterr = s.lasterr := rfl
@[simp] theorem storeByte_cfg (b : Byte) (s : State) : (storeByte b s).cfg = s.cfg := rfl
@[simp] theorem storeByte_rsp (b : Byte) (s : State) : (storeByte b s).rsp = s.rsp := rfl
@[simp] theorem storeByte_pending (b : Byte) (s : State) : (storeByte b s).pending = s.pending := rfl

@[simp] theorem clearWindow_crc (s : State) : (clearWindow s).crc = s.crc := rfl
@[simp] theorem clearWindow_vcrc (s : State) : (clearWindow s).vcrc = s.vcrc := rfl
@[simp] theorem clearWindow_buf (s : State) : (clearWindow s).buf = s.buf := rfl
@[simp] theorem clearWindow_count (s : State) : (clearWindow s).count = 0 := rfl
@[simp] theorem clearWindow_expected (s : State) : (clearWindow s).expected = s.expected := rfl
@[simp] theorem clearWindow_timeout (s : State) : (clearWindow s).timeout = s.timeout := rfl
@[simp] theorem clearWindow_timer (s : State) : (clearWindow s).timer = 0 := rfl
@[simp] theorem clearWindow_astate (s : State) : (clearWindow s).astate = s.astate := rfl
@[simp] theorem clearWindow_reason (s : State) : (clearWindow s).reason = .none := rfl
@[simp] theorem clearWindow_ovf (s : State) : (clearWindow s).ovf = false := rfl
@[simp] theorem clearWindow_vdone (s : State) : (clearWindow s).vdone = false := rfl
@[simp] theorem clearWindow_crcok (s : State) : (clearWindow s).crcok = false := rfl
@[simp] theorem clearWindow_short (s : State) : (clearWindow s).short = false := rfl
@[simp] theorem clearWindow_cmderr (s : State) : (clearWindow s).cmderr = s.cmderr := rfl
@[simp] theorem clearWindow_lasterr (s : State) : (clearWindow s).lasterr = s.lasterr := rfl
@[simp] theorem clearWindow_cfg (s : State) : (clearWindow s).cfg = s.cfg := rfl
@[simp] theorem clearWindow_rsp (s : State) : (clearWindow s).rsp = s.rsp := rfl
@[simp] theorem clearWindow_pending (s : State) : (clearWindow s).pending = s.pending := rfl

@[simp] theorem closeWindow_crc (r : Reason) (s : State) : (closeWindow r s).crc = s.crc := rfl
@[simp] theorem closeWindow_vcrc (r : Reason) (s : State) : (closeWindow r s).vcrc = s.vcrc := rfl
@[simp] theorem closeWindow_buf (r : Reason) (s : State) : (closeWindow r s).buf = s.buf := rfl
@[simp] theorem closeWindow_count (r : Reason) (s : State) : (closeWindow r s).count = s.count := rfl
@[simp] theorem closeWindow_expected (r : Reason) (s : State) : (closeWindow r s).expected = s.expected := rfl
@[simp] theorem closeWindow_timeout (r : Reason) (s : State) : (closeWindow r s).timeout = s.timeout := rfl
@[simp] theorem closeWindow_timer (r : Reason) (s : State) : (closeWindow r s).timer = s.timer := rfl
@[simp] theorem closeWindow_astate (r : Reason) (s : State) : (closeWindow r s).astate = .done := rfl
@[simp] theorem closeWindow_reason (r : Reason) (s : State) : (closeWindow r s).reason = r := rfl
@[simp] theorem closeWindow_ovf (r : Reason) (s : State) : (closeWindow r s).ovf = s.ovf := rfl
@[simp] theorem closeWindow_vdone (r : Reason) (s : State) : (closeWindow r s).vdone = s.vdone := rfl
@[simp] theorem closeWindow_crcok (r : Reason) (s : State) : (closeWindow r s).crcok = s.crcok := rfl
@[simp] theorem closeWindow_short (r : Reason) (s : State) : (closeWindow r s).short = s.short := rfl
@[simp] theorem closeWindow_cmderr (r : Reason) (s : State) : (closeWindow r s).cmderr = s.cmderr := rfl
@[simp] theorem closeWindow_lasterr (r : Reason) (s : State) : (closeWindow r s).lasterr = s.lasterr := rfl
@[simp] theorem closeWindow_cfg (r : Reason) (s : State) : (closeWindow r s).cfg = s.cfg := rfl
@[simp] theorem closeWindow_rsp (r : Reason) (s : State) : (closeWindow r s).rsp = s.rsp := rfl
@[simp] theorem closeWindow_pending (r : Reason) (s : State) : (closeWindow r s).pending = s.pending := rfl

@[simp] theorem validateShort_crc (s : State) : (validateShort s).crc = s.crc := rfl
@[simp] theorem validateShort_vcrc (s : State) : (validateShort s).vcrc = 0xFFFF := rfl
@[simp] theorem validateShort_buf (s : State) : (validateShort s).buf = s.buf := rfl
@[simp] theorem validateShort_count (s : State) : (validateShort s).count = s.count := rfl
@[simp] theorem validateShort_expected (s : State) : (validateShort s).expected = s.expected := rfl
@[simp] theorem validateShort_timeout (s : State) : (validateShort s).timeout = s.timeout := rfl
@[simp] theorem validateShort_timer (s : State) : (validateShort s).timer = s.timer := rfl
@[simp] theorem validateShort_astate (s : State) : (validateShort s).astate = s.astate := rfl
@[simp] theorem validateShort_reason (s : State) : (validateShort s).reason = s.reason := rfl
@[simp] theorem validateShort_ovf (s : State) : (validateShort s).ovf = s.ovf := rfl
@[simp] theorem validateShort_vdone (s : State) : (validateShort s).vdone = true := rfl
@[simp] theorem validateShort_crcok (s : State) : (validateShort s).crcok = false := rfl
@[simp] theorem validateShort_short (s : State) : (validateShort s).short = true := rfl
@[simp] theorem validateShort_cmderr (s : State) : (validateShort s).cmderr = s.cmderr := rfl
@[simp] theorem validateShort_lasterr (s : State) : (validateShort s).lasterr = s.lasterr := rfl
@[simp] theorem validateShort_cfg (s : State) : (validateShort s).cfg = s.cfg := rfl
@[simp] theorem validateShort_rsp (s : State) : (validateShort s).rsp = s.rsp := rfl
@[simp] theorem validateShort_pending (s : State) : (validateShort s).pending = s.pending := rfl

@[simp] theorem validateFrame_crc (f : List Byte) (s : State) : (validateFrame f s).crc = s.crc := rfl
@[simp] theorem validateFrame_vcrc (f : List Byte) (s : State) : (validateFrame f s).vcrc = crc16 (frameBody f) := rfl
@[simp] theorem validateFrame_buf (f : List Byte) (s : State) : (validateFrame f s).buf = s.buf := rfl
@[simp] theorem validateFrame_count (f : List Byte) (s : State) : (validateFrame f s).count = s.count := rfl
@[simp] theorem validateFrame_expected (f : List Byte) (s : State) : (validateFrame f s).expected = s.expected := rfl
@[simp] theorem validateFrame_timeout (f : List Byte) (s : State) : (validateFrame f s).timeout = s.timeout := rfl
@[simp] theorem validateFrame_timer (f : List Byte) (s : State) : (validateFrame f s).timer = s.timer := rfl
@[simp] theorem validateFrame_astate (f : List Byte) (s : State) : (validateFrame f s).astate = s.astate := rfl
@[simp] theorem validateFrame_reason (f : List Byte) (s : State) : (validateFrame f s).reason = s.reason := rfl
@[simp] theorem validateFrame_ovf (f : List Byte) (s : State) : (validateFrame f s).ovf = s.ovf := rfl
@[simp] theorem validateFrame_vdone (f : List Byte) (s : State) : (validateFrame f s).vdone = true := rfl
@[simp] theorem validateFrame_crcok (f : List Byte) (s : State) : (validateFrame f s).crcok = crcOkFlag (crc16 (frameBody f)) f s.ovf := rfl
@[simp] theorem validateFrame_short (f : List Byte) (s : State) : (validateFrame f s).short = false := rfl
@[simp] theorem validateFrame_cmderr (f : List Byte) (s : State) : (validateFrame f s).cmderr = s.cmderr := rfl
@[simp] theorem validateFrame_lasterr (f : List Byte) (s : State) : (validateFrame f s).lasterr = s.lasterr := rfl
@[simp] theorem validateFrame_cfg (f : List Byte) (s : State) : (validateFrame f s).cfg = s.cfg := rfl
@[simp] theorem validateFrame_rsp (f : List Byte) (s : State) : (validateFrame f s).rsp = s.rsp := rfl
@[simp] theorem validateFrame_pending (f : List Byte) (s : State) : (validateFrame f s).pending = s.pending := rfl

@[simp] theorem dropCycle_toArch (s : State) : (dropCycle s).toArch = s.toArch := rfl
@[simp] theorem dropCycle_crc (s : State) : (dropCycle s).crc = s.crc := rfl
@[simp] theorem dropCycle_vcrc (s : State) : (dropCycle s).vcrc = s.vcrc := rfl
@[simp] theorem dropCycle_buf (s : State) : (dropCycle s).buf = s.buf := rfl
@[simp] theorem dropCycle_count (s : State) : (dropCycle s).count = s.count := rfl
@[simp] theorem dropCycle_expected (s : State) : (dropCycle s).expected = s.expected := rfl
@[simp] theorem dropCycle_timeout (s : State) : (dropCycle s).timeout = s.timeout := rfl
@[simp] theorem dropCycle_timer (s : State) : (dropCycle s).timer = s.timer := rfl
@[simp] theorem dropCycle_astate (s : State) : (dropCycle s).astate = s.astate := rfl
@[simp] theorem dropCycle_reason (s : State) : (dropCycle s).reason = s.reason := rfl
@[simp] theorem dropCycle_ovf (s : State) : (dropCycle s).ovf = s.ovf := rfl
@[simp] theorem dropCycle_vdone (s : State) : (dropCycle s).vdone = s.vdone := rfl
@[simp] theorem dropCycle_crcok (s : State) : (dropCycle s).crcok = s.crcok := rfl
@[simp] theorem dropCycle_short (s : State) : (dropCycle s).short = s.short := rfl
@[simp] theorem dropCycle_cmderr (s : State) : (dropCycle s).cmderr = s.cmderr := rfl
@[simp] theorem dropCycle_lasterr (s : State) : (dropCycle s).lasterr = s.lasterr := rfl
@[simp] theorem dropCycle_cfg (s : State) : (dropCycle s).cfg = s.cfg := rfl
@[simp] theorem dropCycle_rsp (s : State) : (dropCycle s).rsp = s.rsp := rfl
@[simp] theorem dropCycle_pending (s : State) : (dropCycle s).pending = s.pending.tail := rfl

@[simp] theorem resetState_crc (s : State) : (resetState s).crc = 0xFFFF := rfl
@[simp] theorem resetState_vcrc (s : State) : (resetState s).vcrc = 0xFFFF := rfl
@[simp] theorem resetState_buf (s : State) : (resetState s).buf = s.buf := rfl
@[simp] theorem resetState_count (s : State) : (resetState s).count = 0 := rfl
@[simp] theorem resetState_expected (s : State) : (resetState s).expected = 0xFFFF := rfl
@[simp] theorem resetState_timeout (s : State) : (resetState s).timeout = 1000 := rfl
@[simp] theorem resetState_timer (s : State) : (resetState s).timer = 0 := rfl
@[simp] theorem resetState_astate (s : State) : (resetState s).astate = .idle := rfl
@[simp] theorem resetState_reason (s : State) : (resetState s).reason = .none := rfl
@[simp] theorem resetState_ovf (s : State) : (resetState s).ovf = false := rfl
@[simp] theorem resetState_vdone (s : State) : (resetState s).vdone = false := rfl
@[simp] theorem resetState_crcok (s : State) : (resetState s).crcok = false := rfl
@[simp] theorem resetState_short (s : State) : (resetState s).short = false := rfl
@[simp] theorem resetState_cmderr (s : State) : (resetState s).cmderr = false := rfl
@[simp] theorem resetState_lasterr (s : State) : (resetState s).lasterr = none := rfl
@[simp] theorem resetState_cfg (s : State) : (resetState s).cfg = s.cfg := rfl
@[simp] theorem resetState_rsp (s : State) : (resetState s).rsp = none := rfl
@[simp] theorem resetState_pending (s : State) : (resetState s).pending = s.pending := rfl

end Sys2Proof.Machine
end

