-- ==== Sys2Proof/Laws/Ops.lean ====
section
/-! SUPPORT. Everything a shared operation can do, said once: buffer reads, the close test, and a byte taken. -/

namespace Sys2Proof.Machine

/-- A read of an index that exists answers its byte. -/
theorem memRead_of_lt {s : State} {i : Nat} (h : i < s.cfg.bufSize) : memRead s i = .ok (Memory.read s.buf i) := if_pos h

/-- A read that answers answers the byte at the index. -/
theorem memRead_ok {s : State} {i : Nat} {b : Byte} (h : memRead s i = .ok b) :
    i < s.cfg.bufSize ∧ b = Memory.read s.buf i := by
  unfold memRead at h
  split at h
  · exact ⟨‹_›, by simpa using h.symm⟩
  · cases h

/-- A span inside the buffer answers the bytes of its indices, in index order. -/
theorem memReadSpan_of_le {s : State} {start len : Nat} (h : start + len ≤ s.cfg.bufSize) :
    memReadSpan s start len = .ok ((List.range' start len).map (Memory.read s.buf)) := by
  induction len generalizing start with
  | zero => rfl
  | succ len ih =>
    rw [memReadSpan, memRead_of_lt (by omega), ih (by omega)]
    rfl

/-- A span that answers answers the bytes of its indices. -/
theorem memReadSpan_ok {s : State} {start len : Nat} {f : List Byte} (h : memReadSpan s start len = .ok f) :
    f = (List.range' start len).map (Memory.read s.buf) := by
  induction len generalizing start f with
  | zero => simpa [memReadSpan] using h.symm
  | succ len ih =>
    rw [memReadSpan] at h
    cases hb : memRead s start with
    | error e => simp [hb] at h
    | ok b =>
      cases hs : memReadSpan s (start + 1) len with
      | error e => simp [hb, hs] at h
      | ok bs =>
        simp only [hb, hs, Except.ok.injEq] at h
        rw [← h, (memRead_ok hb).2, ih hs, List.range'_succ, List.map_cons]

/-- What a span reads depends on the buffer and the configuration alone. -/
theorem memReadSpan_congr {s t : State} (hb : t.buf = s.buf) (hc : t.cfg = s.cfg) (start len : Nat) :
    memReadSpan t start len = memReadSpan s start len := by
  induction len generalizing start with
  | zero => rfl
  | succ len ih => simp only [memReadSpan, memRead, hb, hc, ih]

/-- The whole candidate frame, when `COUNT` ≤ `BUF_SIZE`. -/
theorem memReadSpan_candidateFrame {s : State} (h : s.count.toNat ≤ s.cfg.bufSize) :
    memReadSpan s 0 s.count.toNat = .ok (candidateFrame s) := by
  rw [memReadSpan_of_le (by omega), candidateFrame, List.range_eq_range']

@[simp] theorem candidateFrame_length (s : State) : (candidateFrame s).length = s.count.toNat := by simp [candidateFrame]

/-- The frame as it reads: the byte at an index below `COUNT`. -/
theorem candidateFrame_getD (s : State) {i : Nat} (h : i < s.count.toNat) :
    (candidateFrame s).getD i 0 = Memory.read s.buf i := by
  simp [candidateFrame, List.getD_eq_getElem?_getD, h]

/-- The frame less its last two bytes. -/
theorem frameBody_candidateFrame (s : State) :
    frameBody (candidateFrame s) = (List.range (s.count.toNat - 2)).map (Memory.read s.buf) := by
  rw [frameBody, candidateFrame_length, candidateFrame, ← List.map_take, List.take_range,
    Nat.min_eq_left (Nat.sub_le _ _)]

/-- `buf_read` at or above `COUNT`. -/
theorem bufRead_of_le {s : State} {i : Half} (h : s.count ≤ i) : bufRead s i = .ok 0x00 :=
  if_neg (BitVec.not_lt.mpr h)

/-- `buf_read` below `COUNT`, at an index that exists. -/
theorem bufRead_of_lt {s : State} {i : Half} (h : i < s.count) (hb : i.toNat < s.cfg.bufSize) :
    bufRead s i = .ok (Memory.read s.buf i.toNat) := by rw [bufRead, if_pos h, memRead_of_lt hb]

/-- The close test in all its cases (R121). -/
theorem accCheck_cases (s : State) :
    (s.astate = .opened ∧ s.expected ≤ s.count ∧ accCheck s = closeWindow .quota s) ∨
    (s.astate = .opened ∧ s.count < s.expected ∧ s.timeout ≤ s.timer ∧ accCheck s = closeWindow .tmo s) ∨
    (s.astate = .opened ∧ s.count < s.expected ∧ s.timer < s.timeout ∧ accCheck s = s) ∨
    (s.astate ≠ .opened ∧ accCheck s = s) := by
  unfold accCheck
  by_cases h1 : s.astate = .opened
  · by_cases h2 : s.expected ≤ s.count
    · exact .inl ⟨h1, h2, by simp [h1, h2]⟩
    · by_cases h3 : s.timeout ≤ s.timer
      · exact .inr (.inl ⟨h1, BitVec.not_le.mp h2, h3, by simp [h1, h2, h3]⟩)
      · exact .inr (.inr (.inl ⟨h1, BitVec.not_le.mp h2, BitVec.not_le.mp h3, by simp [h1, h2, h3]⟩))
  · exact .inr (.inr (.inr ⟨h1, by simp [h1]⟩))

/-- The close test changes `ASTATE` and `REASON` and nothing else. -/
theorem accCheck_eq (s : State) :
    accCheck s = { s with astate := (accCheck s).astate, reason := (accCheck s).reason } := by
  rcases accCheck_cases s with ⟨_, _, h⟩ | ⟨_, _, _, h⟩ | ⟨_, _, _, h⟩ | ⟨_, h⟩ <;> simp [h, closeWindow]

@[simp] theorem accCheck_crc (s : State) : (accCheck s).crc = s.crc := by rw [accCheck_eq]
@[simp] theorem accCheck_vcrc (s : State) : (accCheck s).vcrc = s.vcrc := by rw [accCheck_eq]
@[simp] theorem accCheck_buf (s : State) : (accCheck s).buf = s.buf := by rw [accCheck_eq]
@[simp] theorem accCheck_count (s : State) : (accCheck s).count = s.count := by rw [accCheck_eq]
@[simp] theorem accCheck_expected (s : State) : (accCheck s).expected = s.expected := by rw [accCheck_eq]
@[simp] theorem accCheck_timeout (s : State) : (accCheck s).timeout = s.timeout := by rw [accCheck_eq]
@[simp] theorem accCheck_timer (s : State) : (accCheck s).timer = s.timer := by rw [accCheck_eq]
@[simp] theorem accCheck_ovf (s : State) : (accCheck s).ovf = s.ovf := by rw [accCheck_eq]
@[simp] theorem accCheck_vdone (s : State) : (accCheck s).vdone = s.vdone := by rw [accCheck_eq]
@[simp] theorem accCheck_crcok (s : State) : (accCheck s).crcok = s.crcok := by rw [accCheck_eq]
@[simp] theorem accCheck_short (s : State) : (accCheck s).short = s.short := by rw [accCheck_eq]
@[simp] theorem accCheck_cmderr (s : State) : (accCheck s).cmderr = s.cmderr := by rw [accCheck_eq]
@[simp] theorem accCheck_lasterr (s : State) : (accCheck s).lasterr = s.lasterr := by rw [accCheck_eq]
@[simp] theorem accCheck_cfg (s : State) : (accCheck s).cfg = s.cfg := by rw [accCheck_eq]
@[simp] theorem accCheck_rsp (s : State) : (accCheck s).rsp = s.rsp := by rw [accCheck_eq]
@[simp] theorem accCheck_pending (s : State) : (accCheck s).pending = s.pending := by rw [accCheck_eq]

/-- A byte taken, in its two cases (R133). -/
theorem takeByte_cases (b : Byte) (s : State) :
    (s.count.toNat < s.cfg.bufSize ∧ takeByte b s = storeByte b s) ∨
    (s.cfg.bufSize ≤ s.count.toNat ∧ takeByte b s = { s with ovf := true }) := by
  unfold takeByte
  by_cases h : s.count.toNat < s.cfg.bufSize
  · exact .inl ⟨h, if_pos h⟩
  · exact .inr ⟨by omega, if_neg h⟩

/-- A byte taken changes `BUF`, `COUNT` and `OVF` and nothing else. -/
theorem takeByte_eq (b : Byte) (s : State) :
    takeByte b s = { s with buf := (takeByte b s).buf, count := (takeByte b s).count, ovf := (takeByte b s).ovf } := by
  rcases takeByte_cases b s with ⟨_, h⟩ | ⟨_, h⟩ <;> simp [h, storeByte]

@[simp] theorem takeByte_crc (b : Byte) (s : State) : (takeByte b s).crc = s.crc := by rw [takeByte_eq]
@[simp] theorem takeByte_vcrc (b : Byte) (s : State) : (takeByte b s).vcrc = s.vcrc := by rw [takeByte_eq]
@[simp] theorem takeByte_expected (b : Byte) (s : State) : (takeByte b s).expected = s.expected := by rw [takeByte_eq]
@[simp] theorem takeByte_timeout (b : Byte) (s : State) : (takeByte b s).timeout = s.timeout := by rw [takeByte_eq]
@[simp] theorem takeByte_timer (b : Byte) (s : State) : (takeByte b s).timer = s.timer := by rw [takeByte_eq]
@[simp] theorem takeByte_vdone (b : Byte) (s : State) : (takeByte b s).vdone = s.vdone := by rw [takeByte_eq]
@[simp] theorem takeByte_crcok (b : Byte) (s : State) : (takeByte b s).crcok = s.crcok := by rw [takeByte_eq]
@[simp] theorem takeByte_short (b : Byte) (s : State) : (takeByte b s).short = s.short := by rw [takeByte_eq]
@[simp] theorem takeByte_cmderr (b : Byte) (s : State) : (takeByte b s).cmderr = s.cmderr := by rw [takeByte_eq]
@[simp] theorem takeByte_lasterr (b : Byte) (s : State) : (takeByte b s).lasterr = s.lasterr := by rw [takeByte_eq]
@[simp] theorem takeByte_cfg (b : Byte) (s : State) : (takeByte b s).cfg = s.cfg := by rw [takeByte_eq]
@[simp] theorem takeByte_rsp (b : Byte) (s : State) : (takeByte b s).rsp = s.rsp := by rw [takeByte_eq]
@[simp] theorem takeByte_pending (b : Byte) (s : State) : (takeByte b s).pending = s.pending := by rw [takeByte_eq]
@[simp] theorem takeByte_astate (b : Byte) (s : State) : (takeByte b s).astate = s.astate := by rw [takeByte_eq]
@[simp] theorem takeByte_reason (b : Byte) (s : State) : (takeByte b s).reason = s.reason := by rw [takeByte_eq]

/-- The timer after a byte: back to 0 in the silence mode, else as it was (R16). -/
theorem restartTimer_eq (s : State) :
    restartTimer s = { s with timer := if s.cfg.timeoutRestart then 0 else s.timer } := by
  unfold restartTimer
  split <;> rfl

@[simp] theorem restartTimer_timer (s : State) :
    (restartTimer s).timer = if s.cfg.timeoutRestart then 0 else s.timer := by rw [restartTimer_eq]
@[simp] theorem restartTimer_crc (s : State) : (restartTimer s).crc = s.crc := by rw [restartTimer_eq]
@[simp] theorem restartTimer_vcrc (s : State) : (restartTimer s).vcrc = s.vcrc := by rw [restartTimer_eq]
@[simp] theorem restartTimer_buf (s : State) : (restartTimer s).buf = s.buf := by rw [restartTimer_eq]
@[simp] theorem restartTimer_count (s : State) : (restartTimer s).count = s.count := by rw [restartTimer_eq]
@[simp] theorem restartTimer_expected (s : State) : (restartTimer s).expected = s.expected := by rw [restartTimer_eq]
@[simp] theorem restartTimer_timeout (s : State) : (restartTimer s).timeout = s.timeout := by rw [restartTimer_eq]
@[simp] theorem restartTimer_ovf (s : State) : (restartTimer s).ovf = s.ovf := by rw [restartTimer_eq]
@[simp] theorem restartTimer_vdone (s : State) : (restartTimer s).vdone = s.vdone := by rw [restartTimer_eq]
@[simp] theorem restartTimer_crcok (s : State) : (restartTimer s).crcok = s.crcok := by rw [restartTimer_eq]
@[simp] theorem restartTimer_short (s : State) : (restartTimer s).short = s.short := by rw [restartTimer_eq]
@[simp] theorem restartTimer_cmderr (s : State) : (restartTimer s).cmderr = s.cmderr := by rw [restartTimer_eq]
@[simp] theorem restartTimer_lasterr (s : State) : (restartTimer s).lasterr = s.lasterr := by rw [restartTimer_eq]
@[simp] theorem restartTimer_cfg (s : State) : (restartTimer s).cfg = s.cfg := by rw [restartTimer_eq]
@[simp] theorem restartTimer_rsp (s : State) : (restartTimer s).rsp = s.rsp := by rw [restartTimer_eq]
@[simp] theorem restartTimer_pending (s : State) : (restartTimer s).pending = s.pending := by rw [restartTimer_eq]
@[simp] theorem restartTimer_astate (s : State) : (restartTimer s).astate = s.astate := by rw [restartTimer_eq]
@[simp] theorem restartTimer_reason (s : State) : (restartTimer s).reason = s.reason := by rw [restartTimer_eq]

end Sys2Proof.Machine
end

