-- ==== Sys2Proof/Laws/Exec.lean ====
section
/-! SUPPORT. What one operation can do, said once: each meaning that has cases in its cases, and what no operation does. -/

namespace Sys2Proof.Machine

/-- `VAL.RUN` in its four cases (R110). -/
theorem execValRun_cases (s : State) :
    (s.astate ≠ .done ∧ execValRun s = .next (raiseCmdError .badState s)) ∨
    (s.astate = .done ∧ s.count < 2 ∧ execValRun s = .next (respond 0 (validateShort s))) ∨
    (s.astate = .done ∧ 2 ≤ s.count ∧ memReadSpan s 0 s.count.toNat = .ok (candidateFrame s) ∧
      execValRun s = .next (respond (zextBit (validateFrame (candidateFrame s) s).crcok)
        (validateFrame (candidateFrame s) s))) ∨
    (s.astate = .done ∧ 2 ≤ s.count ∧ s.cfg.bufSize < s.count.toNat ∧ ∃ f, execValRun s = .fault f) := by
  unfold execValRun
  by_cases h1 : s.astate = .done
  · by_cases h2 : s.count < 2
    · exact .inr (.inl ⟨h1, h2, by rw [if_pos h1, if_pos h2]; rfl⟩)
    · cases h3 : memReadSpan s 0 s.count.toNat with
      | ok f =>
        have hf : f = candidateFrame s := by
          rw [memReadSpan_ok h3, candidateFrame, List.range_eq_range']
        subst hf
        exact .inr (.inr (.inl ⟨h1, BitVec.not_lt.mp h2, rfl, by rw [if_pos h1, if_neg h2]⟩))
      | error f =>
        refine .inr (.inr (.inr ⟨h1, BitVec.not_lt.mp h2, ?_, f, by rw [if_pos h1, if_neg h2]⟩))
        by_contra hle
        rw [memReadSpan_candidateFrame (by omega)] at h3
        cases h3
  · exact .inl ⟨h1, by simp [h1]⟩

/-- `ACC.RDBUF` in its cases (R128). -/
theorem execAccRdbuf_cases (h : Half) (s : State) :
    (∃ b, bufRead s h = .ok b ∧ execAccRdbuf h s = .next (respond (zextByte b) s)) ∨
    (h < s.count ∧ s.cfg.bufSize ≤ h.toNat ∧ ∃ f, execAccRdbuf h s = .fault f) := by
  unfold execAccRdbuf
  cases hb : bufRead s h with
  | ok b => exact .inl ⟨b, rfl, rfl⟩
  | error f =>
    refine .inr ⟨?_, ?_, f, rfl⟩
    · by_contra hlt
      rw [bufRead_of_le (BitVec.not_lt.mp hlt)] at hb
      cases hb
    · by_contra hge
      by_cases hlt : h < s.count
      · rw [bufRead_of_lt hlt (by omega)] at hb
        cases hb
      · rw [bufRead_of_le (BitVec.not_lt.mp hlt)] at hb
        cases hb

/-- No operation is refused. -/
theorem exec_ne_refused (i : Instr) (s : State) (r : Refusal) : exec i s ≠ .refused r := by
  cases i <;> simp only [exec, execNop, execErrClr, execCrcInit, execCrcUpd, execCrcRdlo, execCrcRdhi, execCrcRd,
    execValRdcrc, execAccSetexp, execAccSettmo, execAccStart, execAccAbort, execAccClr, execAccRdcnt, execAccRdstat,
    execAccRdexp, execAccRdtmo, execAccRdtmr, execRxByte, execTick] <;>
    first | (intro h; cases h) | (split <;> (intro h; cases h)) | skip
  case valRun =>
    rcases execValRun_cases s with ⟨_, h⟩ | ⟨_, _, h⟩ | ⟨_, _, _, h⟩ | ⟨_, _, _, f, h⟩ <;> simp [h]
  case accRdbuf h =>
    rcases execAccRdbuf_cases h s with ⟨b, _, h⟩ | ⟨_, _, f, h⟩ <;> simp [h]

/-- Every operation goes on when `COUNT` ≤ `BUF_SIZE`. -/
theorem exec_goes_on (i : Instr) {s : State} (hc : s.count.toNat ≤ s.cfg.bufSize) : ∃ t, exec i s = .next t := by
  cases i <;> simp only [exec, execNop, execErrClr, execCrcInit, execCrcUpd, execCrcRdlo, execCrcRdhi, execCrcRd,
    execValRdcrc, execAccSetexp, execAccSettmo, execAccStart, execAccAbort, execAccClr, execAccRdcnt, execAccRdstat,
    execAccRdexp, execAccRdtmo, execAccRdtmr, execRxByte, execTick] <;>
    first | exact ⟨_, rfl⟩ | (split <;> exact ⟨_, rfl⟩) | skip
  case valRun =>
    rcases execValRun_cases s with ⟨_, h⟩ | ⟨_, _, h⟩ | ⟨_, _, _, h⟩ | ⟨_, _, hlt, _, _⟩
    · exact ⟨_, h⟩
    · exact ⟨_, h⟩
    · exact ⟨_, h⟩
    · omega
  case accRdbuf h =>
    rcases execAccRdbuf_cases h s with ⟨b, _, h⟩ | ⟨hlt, hge, _, _⟩
    · exact ⟨_, h⟩
    · have := BitVec.lt_def.mp hlt
      omega

end Sys2Proof.Machine
end

