-- ==== Sys2Proof/Laws/Cycle.lean ====
section
/-! SUPPORT. One cycle taken apart: which operations it ran, in which order, or that it was a reset. -/

namespace Sys2Proof.Machine

@[simp] theorem andThen_next (s : State) (f : State → Host.Outcome State Fault Refusal) :
    andThen (.next s) f = f s := rfl

/-- A sequence of two goes on exactly when both do, the second from where the first ended. -/
theorem andThen_eq_next {o : Host.Outcome State Fault Refusal} {f : State → Host.Outcome State Fault Refusal} {t : State} :
    andThen o f = .next t ↔ ∃ s, o = .next s ∧ f s = .next t := by
  cases o <;> simp [andThen]

/-- A command word that runs either is a legal command with a meaning, or is refused by the decoder. -/
theorem runCommand_cases {w : Word24} {s t : State} (h : runCommand w s = .next t) :
    (∃ i, decodeCmd w = .ok i ∧ exec i s = .next t) ∨ (∃ e, decodeCmd w = .error e ∧ t = raiseCmdError e s) := by
  unfold runCommand at h
  cases hd : decodeCmd w with
  | ok i => exact .inl ⟨i, rfl, by simpa [hd] using h⟩
  | error e => exact .inr ⟨e, rfl, by simpa [hd] using h.symm⟩

@[simp] theorem runCommand_of_error {w : Word24} {e : CmdError} (h : decodeCmd w = .error e) (s : State) :
    runCommand w s = .next (raiseCmdError e s) := by simp [runCommand, h]

@[simp] theorem runCommand_of_ok {w : Word24} {i : Instr} (h : decodeCmd w = .ok i) (s : State) :
    runCommand w s = exec i s := by simp [runCommand, h]

/-- A step that goes on: a reset cycle, or the three stages in their order (R7, R200). -/
theorem step_eq_next {s t : State} :
    step s = .next t ↔
      ((nextCycle s).rst = true ∧ t = resetState (dropCycle s)) ∨
      ((nextCycle s).rst = false ∧ ∃ s1 s2,
        commandStage (nextCycle s).cmd { dropCycle s with rsp := none } = .next s1 ∧
        eventStage (decodeRx (nextCycle s).rx) s1 = .next s2 ∧
        eventStage (decodeTick (nextCycle s).tick) s2 = .next t) := by
  unfold step runCycle
  cases (nextCycle s).rst
  · simp [andThen_eq_next]
  · simp [eq_comm]

/-- What decodes on the receive port is a byte (R66). -/
theorem decodeRx_eq_some {v : BitVec 9} {i : Instr} (h : decodeRx v = some i) : i = .rxByte (rxData v) := by
  unfold decodeRx at h
  split at h
  · simpa using h.symm
  · cases h

/-- What decodes on the tick port is a tick (R66). -/
theorem decodeTick_eq_some {v : BitVec 1} {i : Instr} (h : decodeTick v = some i) : i = .tick := by
  unfold decodeTick at h
  split at h
  · simpa using h.symm
  · cases h

/-- The receive stage of a cycle: nothing, or the byte it carries. -/
theorem rxStage_cases {v : BitVec 9} {s t : State} (h : eventStage (decodeRx v) s = .next t) :
    t = s ∨ exec (.rxByte (rxData v)) s = .next t := by
  cases hd : decodeRx v with
  | none => exact .inl (by simpa [eventStage, hd] using h.symm)
  | some i => exact .inr (by simpa [eventStage, hd, decodeRx_eq_some hd] using h)

/-- The tick stage of a cycle: nothing, or a tick. -/
theorem tickStage_cases {v : BitVec 1} {s t : State} (h : eventStage (decodeTick v) s = .next t) :
    t = s ∨ exec .tick s = .next t := by
  cases hd : decodeTick v with
  | none => exact .inl (by simpa [eventStage, hd] using h.symm)
  | some i => exact .inr (by simpa [eventStage, hd, decodeTick_eq_some hd] using h)

@[simp] theorem execAll_nil (s : State) : execAll [] s = .next s := rfl
@[simp] theorem execAll_cons (i : Instr) (is : List Instr) (s : State) :
    execAll (i :: is) s = andThen (exec i s) (execAll is) := rfl

/-- A sequence of operations may be run in pieces. -/
theorem execAll_append (is js : List Instr) (s : State) :
    execAll (is ++ js) s = andThen (execAll is s) (execAll js) := by
  induction is generalizing s with
  | nil => rfl
  | cons i is ih =>
    simp only [List.cons_append, execAll_cons]
    cases exec i s with
    | next t => simp only [andThen_next, ih]
    | fault f => rfl
    | refused r => rfl

end Sys2Proof.Machine
end

