-- ==== Sys2Proof/Laws/Decode.lean ====
section
/-! SUPPORT. The decoder on a word made of an opcode and an operand, and the opcode map read off for all 256 opcodes. -/

namespace Sys2Proof.Machine

/-- The decoder by opcode and operand (R62 steps 1 and 2). -/
theorem decodeCmd_cmdWord (op : Byte) (arg : Half) :
    decodeCmd (cmdWord op arg) =
      match opcodeRow op with
      | none => .error .illegalOpcode
      | some row => if reservedBitsSet row.format arg then .error .reservedOperand else .ok (row.make arg) := by
  simp only [decodeCmd, opField_cmdWord, argField_cmdWord] <;> rfl

/-- The format of each of the 256 opcodes, `none` for the 236 that are illegal (R63, R64). -/
theorem opcodeRow_format (op : Byte) :
    (opcodeRow op).map OpRow.format =
      if op = 0x02 then some .b
      else if op = 0x20 ∨ op = 0x21 ∨ op = 0x26 then some .h
      else if op.toNat ≤ 0x05 ∨ op = 0x10 ∨ op = 0x11 ∨ (0x22 ≤ op.toNat ∧ op.toNat ≤ 0x2A) ∨ op = 0x30 then some .n
      else none := by
  revert op
  decide

/-- A word is legal, reserved or illegal by the format of its opcode and its operand alone. -/
theorem decodeCmd_error_iff (op : Byte) (arg : Half) (e : CmdError) :
    decodeCmd (cmdWord op arg) = .error e ↔
      (match (opcodeRow op).map OpRow.format with
        | none => e = .illegalOpcode
        | some f => e = .reservedOperand ∧ reservedBitsSet f arg = true) := by
  rw [decodeCmd_cmdWord]
  cases opcodeRow op with
  | none => simp [eq_comm]
  | some row =>
    cases h : reservedBitsSet row.format arg <;> simp [h, eq_comm]

/-- The must-be-zero bits of format `B` are 0 exactly for an operand below 256. -/
theorem hiByte_eq_zero_iff (arg : Half) : hiByte arg = 0 ↔ arg.toNat < 256 := by
  rw [← BitVec.toNat_inj]
  simp [hiByte]
  omega

/-- Two command words are equal exactly when their fields are. -/
theorem cmdWord_inj {a b : Byte} {x y : Half} : cmdWord a x = cmdWord b y ↔ a = b ∧ x = y := by
  constructor
  · intro h
    have h1 := congrArg opField h
    have h2 := congrArg argField h
    simp only [opField_cmdWord, argField_cmdWord] at h1 h2
    exact ⟨h1, h2⟩
  · rintro ⟨rfl, rfl⟩
    rfl

/-- Masking a command word masks its fields. -/
theorem cmdWord_and (a b : Byte) (x y : Half) : cmdWord a x &&& cmdWord b y = cmdWord (a &&& b) (x &&& y) := by
  unfold cmdWord
  refine BitVec.eq_of_getLsbD_eq fun i hi => ?_
  simp only [BitVec.getLsbD_and, BitVec.getLsbD_or, BitVec.getLsbD_shiftLeft, BitVec.getLsbD_setWidth]
  by_cases h : i < 16
  · simp [h, hi]
  · simp [h, hi, BitVec.getLsbD_of_ge x i (by omega), BitVec.getLsbD_of_ge y i (by omega),
      show i - 16 < 24 by omega]

end Sys2Proof.Machine
end

