-- ==== Sys2Proof/Laws/PerInstr.lean ====
section
/-! SUPPORT. Per-instruction families. `MaskMatch`: the word an operation encodes to selects the row of R63's `match`/`mask`
table that carries its mnemonic, or sets the strobe bit of its event port (R66). -/

namespace Sys2Proof.Laws.MaskMatch

open Sys2Proof Sys2Proof.Machine

/-- The operation's word selects its own row (R63, R66). -/
def Statement (i : Instr) : Prop :=
  match encode i with
  | .cmd w => ∃ r ∈ commandTable, r.mnemonic = i.mnemonic ∧ r.selects w = true
  | .rx v => rxValid v = true
  | .tick v => v = 1#1

/-- A command word is masked field by field: the opcode by `0xFF`, the operand by the rest of the mask. -/
theorem selects_of_fields {r : TableRow} {op : Byte} {arg m : Half} (hp : r.pattern = cmdWord op 0)
    (hm : r.mask = cmdWord 0xFF m) (ha : arg &&& m = 0) : r.selects (cmdWord op arg) = true := by
  have ho : op &&& 0xFF = op := by
    ext i hi
    have hi' : i < 8 := hi
    interval_cases i <;> simp
  rw [TableRow.selects, hm, hp, cmdWord_and, ho, ha]
  exact beq_self_eq_true _

theorem nop : Statement .nop := ⟨⟨"NOP", .n, 0x000000, 0xFFFFFF⟩, by decide, rfl, by decide⟩

theorem crcInit : Statement .crcInit := ⟨⟨"CRC.INIT", .n, 0x010000, 0xFFFFFF⟩, by decide, rfl, by decide⟩

theorem crcUpd (b : Byte) : Statement (.crcUpd b) :=
  ⟨⟨"CRC.UPD", .b, 0x020000, 0xFFFF00⟩, by decide, rfl, selects_of_fields (m := 0xFF00) (by decide) (by decide) (by
      ext i hi
      have hi' : i < 16 := hi
      interval_cases i <;> simp [zextByte])⟩

theorem crcRdlo : Statement .crcRdlo := ⟨⟨"CRC.RDLO", .n, 0x030000, 0xFFFFFF⟩, by decide, rfl, by decide⟩

theorem crcRdhi : Statement .crcRdhi := ⟨⟨"CRC.RDHI", .n, 0x040000, 0xFFFFFF⟩, by decide, rfl, by decide⟩

theorem crcRd : Statement .crcRd := ⟨⟨"CRC.RD", .n, 0x050000, 0xFFFFFF⟩, by decide, rfl, by decide⟩

theorem valRun : Statement .valRun := ⟨⟨"VAL.RUN", .n, 0x100000, 0xFFFFFF⟩, by decide, rfl, by decide⟩

theorem valRdcrc : Statement .valRdcrc := ⟨⟨"VAL.RDCRC", .n, 0x110000, 0xFFFFFF⟩, by decide, rfl, by decide⟩

theorem accSetexp (h : Half) : Statement (.accSetexp h) :=
  ⟨⟨"ACC.SETEXP", .h, 0x200000, 0xFF0000⟩, by decide, rfl, selects_of_fields (m := 0) (by decide) (by decide) (BitVec.and_zero)⟩

theorem accSettmo (h : Half) : Statement (.accSettmo h) :=
  ⟨⟨"ACC.SETTMO", .h, 0x210000, 0xFF0000⟩, by decide, rfl, selects_of_fields (m := 0) (by decide) (by decide) (BitVec.and_zero)⟩

theorem accStart : Statement .accStart := ⟨⟨"ACC.START", .n, 0x220000, 0xFFFFFF⟩, by decide, rfl, by decide⟩

theorem accAbort : Statement .accAbort := ⟨⟨"ACC.ABORT", .n, 0x230000, 0xFFFFFF⟩, by decide, rfl, by decide⟩

theorem accClr : Statement .accClr := ⟨⟨"ACC.CLR", .n, 0x240000, 0xFFFFFF⟩, by decide, rfl, by decide⟩

theorem accRdcnt : Statement .accRdcnt := ⟨⟨"ACC.RDCNT", .n, 0x250000, 0xFFFFFF⟩, by decide, rfl, by decide⟩

theorem accRdbuf (h : Half) : Statement (.accRdbuf h) :=
  ⟨⟨"ACC.RDBUF", .h, 0x260000, 0xFF0000⟩, by decide, rfl, selects_of_fields (m := 0) (by decide) (by decide) (BitVec.and_zero)⟩

theorem accRdstat : Statement .accRdstat := ⟨⟨"ACC.RDSTAT", .n, 0x270000, 0xFFFFFF⟩, by decide, rfl, by decide⟩

theorem accRdexp : Statement .accRdexp := ⟨⟨"ACC.RDEXP", .n, 0x280000, 0xFFFFFF⟩, by decide, rfl, by decide⟩

theorem accRdtmo : Statement .accRdtmo := ⟨⟨"ACC.RDTMO", .n, 0x290000, 0xFFFFFF⟩, by decide, rfl, by decide⟩

theorem accRdtmr : Statement .accRdtmr := ⟨⟨"ACC.RDTMR", .n, 0x2A0000, 0xFFFFFF⟩, by decide, rfl, by decide⟩

theorem errClr : Statement .errClr := ⟨⟨"ERR.CLR", .n, 0x300000, 0xFFFFFF⟩, by decide, rfl, by decide⟩

theorem rxByte (b : Byte) : Statement (.rxByte b) := rxValid_rxWord b

theorem tick : Statement .tick := rfl

end Sys2Proof.Laws.MaskMatch
end

