-- ==== Sys2Proof/Laws/Window.lean ====
section
/-! SUPPORT. The open window: what the close test does to it, and what a byte and a tick do to it in a state that meets the
invariants, where the timer and the counter stay below their bounds (R28 (c), R133, R134). -/

namespace Sys2Proof.Machine

/-- The close test on an open window as one update (R121). -/
theorem accCheck_of_open {s : State} (h : s.astate = .opened) :
    accCheck s = { s with
      astate := if s.expected ≤ s.count ∨ s.timeout ≤ s.timer then .done else .opened
      reason := if s.expected ≤ s.count then .quota else if s.timeout ≤ s.timer then .tmo else s.reason } := by
  unfold accCheck closeWindow
  by_cases h1 : s.expected ≤ s.count <;> by_cases h2 : s.timeout ≤ s.timer <;> simp [h, h1, h2]
  obtain ⟨⟨⟩, _, _, _⟩ := s
  simp_all

/-- The close test outside a window does nothing (R121). -/
theorem accCheck_of_not_open {s : State} (h : s.astate ≠ .opened) : accCheck s = s := if_neg h

/-- A byte outside a window is lost (R133). -/
theorem exec_rxByte_of_not_open {s : State} (h : s.astate ≠ .opened) (b : Byte) : exec (.rxByte b) s = .next s := if_neg h

/-- A byte inside a window, in its three parts (R133). -/
theorem exec_rxByte_of_open {s : State} (h : s.astate = .opened) (b : Byte) :
    exec (.rxByte b) s = .next (accCheck (restartTimer (takeByte b s))) := if_pos h

/-- A tick outside a window is nothing (R134). -/
theorem exec_tick_of_not_open {s : State} (h : s.astate ≠ .opened) : exec .tick s = .next s := if_neg h

/-- A tick inside a window, in its two parts (R134). -/
theorem exec_tick_of_open {s : State} (h : s.astate = .opened) :
    exec .tick s = .next (accCheck { s with timer := s.timer + 1 }) := if_pos h

/-- Adding one below a bound is adding one to the number (R89). -/
theorem half_succ_toNat {x y : Half} (h : x < y) : (x + 1).toNat = x.toNat + 1 := by
  have h1 := BitVec.lt_def.mp h
  have h2 := y.isLt
  rw [BitVec.toNat_add]
  simp
  omega

/-- The timer after a byte, in either mode, is no later than before it. -/
theorem restarted_lt {s : State} (h : s.timer < s.timeout) : ¬ s.timeout ≤ (if s.cfg.timeoutRestart then 0 else s.timer) := by
  have h1 := BitVec.lt_def.mp h
  rw [BitVec.le_def]
  split <;> simp <;> omega

/-- A byte in a window: stored and the quota met, stored and the window still open, or dropped and the window still open. -/
theorem exec_rxByte_cases {s : State} (hi : s.Inv) (h : s.astate = .opened) (b : Byte) :
    (s.count.toNat < s.cfg.bufSize ∧ s.expected.toNat ≤ s.count.toNat + 1 ∧
      exec (.rxByte b) s = .next { s with
        buf := Memory.write s.buf s.count.toNat b, count := s.count + 1
        timer := if s.cfg.timeoutRestart then 0 else s.timer
        astate := .done, reason := .quota }) ∨
    (s.count.toNat < s.cfg.bufSize ∧ s.count.toNat + 1 < s.expected.toNat ∧
      exec (.rxByte b) s = .next { s with
        buf := Memory.write s.buf s.count.toNat b, count := s.count + 1
        timer := if s.cfg.timeoutRestart then 0 else s.timer }) ∨
    (s.count.toNat = s.cfg.bufSize ∧
      exec (.rxByte b) s = .next { s with ovf := true, timer := if s.cfg.timeoutRestart then 0 else s.timer }) := by
  have hq := BitVec.lt_def.mp (hi.open_quota h)
  have hn := half_succ_toNat (hi.open_quota h)
  have ht := restarted_lt (hi.open_timer h)
  have hr : restartTimer (takeByte b s) = { takeByte b s with timer := if s.cfg.timeoutRestart then 0 else s.timer } := by
    simp [restartTimer_eq]
  rw [exec_rxByte_of_open h, accCheck_of_open (s := restartTimer (takeByte b s)) (by simp [h]), hr]
  revert ht
  generalize (if s.cfg.timeoutRestart then 0 else s.timer) = x
  intro ht
  rcases takeByte_cases b s with ⟨hl, hb⟩ | ⟨hl, hb⟩ <;> rw [hb]
  · by_cases hc : s.expected.toNat ≤ s.count.toNat + 1
    · have he : s.expected ≤ s.count + 1 := by rw [BitVec.le_def, hn]; exact hc
      refine .inl ⟨hl, hc, ?_⟩
      simp only [storeByte, he, true_or, if_true]
    · have he : ¬ s.expected ≤ s.count + 1 := by rw [BitVec.le_def, hn]; exact hc
      refine .inr (.inl ⟨hl, by omega, ?_⟩)
      simp only [storeByte, he, ht, false_or, if_false]
      rw [h]
  · have he : ¬ s.expected ≤ s.count := by rw [BitVec.le_def]; omega
    refine .inr (.inr ⟨by have := hi.count_le; omega, ?_⟩)
    simp only [he, ht, false_or, if_false]
    rw [h]

/-- A tick in a window: the timeout reached, or one more tick counted. -/
theorem exec_tick_cases {s : State} (hi : s.Inv) (h : s.astate = .opened) :
    (s.timeout.toNat ≤ s.timer.toNat + 1 ∧
      exec .tick s = .next { s with timer := s.timer + 1, astate := .done, reason := .tmo }) ∨
    (s.timer.toNat + 1 < s.timeout.toNat ∧ exec .tick s = .next { s with timer := s.timer + 1 }) := by
  have hq := BitVec.lt_def.mp (hi.open_quota h)
  have hn := half_succ_toNat (hi.open_timer h)
  have he : ¬ s.expected ≤ s.count := by rw [BitVec.le_def]; omega
  rw [exec_tick_of_open h, accCheck_of_open (s := { s with timer := s.timer + 1 }) h]
  by_cases hc : s.timeout.toNat ≤ s.timer.toNat + 1
  · have ht : s.timeout ≤ s.timer + 1 := by rw [BitVec.le_def, hn]; exact hc
    exact .inl ⟨hc, by simp only [he, ht, false_or, if_true, if_false]⟩
  · have ht : ¬ s.timeout ≤ s.timer + 1 := by rw [BitVec.le_def, hn]; exact hc
    exact .inr ⟨by omega, by simp only [he, ht, false_or, if_false]; rw [h]⟩

/-- `ACC.START` outside a window as one update (R124): opened empty, or closed at once. -/
theorem exec_accStart_of_not_open {s : State} (h : s.astate ≠ .opened) :
    exec .accStart s = .next (respond 0 (accCheck { clearWindow s with astate := .opened })) := if_neg h

end Sys2Proof.Machine
end

