-- ==== Sys2Proof/Tests/Slice0.lean ====
section
/-! SUPPORT. The model's own tests, each expected value taken from the spec (the rule or the vector of 95_test_vectors.md that
a test names), and for every statement with hypotheses a witness: a state and operands that meet all of them together. -/

namespace Sys2Proof.Tests

open Sys2Proof Sys2Proof.Machine Sys2Proof.Spec

/-! ## Sample states -/

/-- A next state that meets a test. -/
def nextMeets (o : Host.Outcome State Fault Refusal) (p : State → Bool) : Bool :=
  match o with
  | .next t => p t
  | .fault _ => false
  | .refused _ => false

/-- The reply of R110's example. -/
def reply : List Byte := [0x01, 0x03, 0x04, 0x00, 0x2A, 0x00, 0x01, 0x1A, 0x3B]

/-- The cells of the first eight bytes of `reply`: a zero byte is not listed. -/
def replyCells : Memory := [(0, 0x01), (1, 0x03), (2, 0x04), (4, 0x2A), (6, 0x01), (7, 0x1A)]

/-- An empty open window: quota 9, timeout 5. -/
def emptyWindow : State := { State.reset with expected := 9, timeout := 5, astate := .opened }

/-- An open window that holds all of `reply` but its last byte (R133's example), one tick before its timeout. -/
def almostReply : State := { emptyWindow with buf := replyCells, count := 8, timer := 4 }

/-- An open window of a block with two bytes of buffer, both taken: the quota is out of reach. -/
def fullWindow : State :=
  { emptyWindow with cfg := ⟨2, false⟩, buf := [(0, 0xFF), (1, 0xFF)], count := 2 }

/-- An open window of a block that restarts its timer, quota off. -/
def silenceWindow : State := { emptyWindow with cfg := ⟨2, true⟩, expected := 0xFFFF }

/-- `reply` received and the window closed by its quota. -/
def replyFrame : State :=
  { emptyWindow with buf := replyCells ++ [(8, 0x3B)], count := 9, astate := .done, reason := .quota }

/-- The frame `FF FF` in a block with two bytes of buffer (R110 corner case (2); `COUNT` = `BUF_SIZE`). -/
def smallFrame : State := { fullWindow with expected := 2, astate := .done, reason := .quota }

/-- One byte and then a timeout. -/
def strayByte : State := { emptyWindow with buf := [(0, 0x55)], count := 1, timer := 5, astate := .done, reason := .tmo }

/-- A state that is to be reset: nothing of it is at its reset value. -/
def busy : State :=
  { almostReply with crc := 0x807E, vcrc := 0x1234, ovf := true, vdone := true, cmderr := true, lasterr := some .badState }

theorem reset_inv : State.reset.Inv := by constructor <;> decide
theorem emptyWindow_inv : emptyWindow.Inv := by constructor <;> decide
theorem almostReply_inv : almostReply.Inv := by constructor <;> decide
theorem fullWindow_inv : fullWindow.Inv := by constructor <;> decide
theorem silenceWindow_inv : silenceWindow.Inv := by constructor <;> decide
theorem replyFrame_inv : replyFrame.Inv := by constructor <;> decide
theorem strayByte_inv : strayByte.Inv := by constructor <;> decide

/-- The state with one cycle to come. -/
def presented (c : Cycle) (s : State) : State := { s with pending := [c] }

/-! ## WellFormed: each check refuses an ill-formed term -/

theorem test_wf_bufSize_below : (Config.mk 1 false).wf = false := by decide
theorem test_wf_bufSize_above : (Config.mk 65536 true).wf = false := by decide
theorem test_wf_bufSize_bounds : (Config.mk 2 true).wf = true ∧ (Config.mk 65535 false).wf = true := by decide
theorem test_wf_rx_without_strobe : (PortWord.rx 0x03B).wf = false := by decide
theorem test_wf_rx_with_strobe : (PortWord.rx 0x13B).wf = true := by decide
theorem test_wf_tick_without_strobe : (PortWord.tick 0).wf = false := by decide

/-! ## Decoding: words written out from R63, R66, R67 -/

theorem test_decode_system : decodeCmd 0x000000 = .ok .nop ∧ decodeCmd 0x300000 = .ok .errClr := by decide

theorem test_decode_generator :
    decodeCmd 0x010000 = .ok .crcInit ∧ decodeCmd 0x02002A = .ok (.crcUpd 0x2A) ∧ decodeCmd 0x0200FF = .ok (.crcUpd 0xFF) ∧
    decodeCmd 0x030000 = .ok .crcRdlo ∧ decodeCmd 0x040000 = .ok .crcRdhi ∧ decodeCmd 0x050000 = .ok .crcRd := by decide

theorem test_decode_validator : decodeCmd 0x100000 = .ok .valRun ∧ decodeCmd 0x110000 = .ok .valRdcrc := by decide

theorem test_decode_accumulator :
    decodeCmd 0x200009 = .ok (.accSetexp 9) ∧ decodeCmd 0x2103E8 = .ok (.accSettmo 1000) ∧
    decodeCmd 0x220000 = .ok .accStart ∧ decodeCmd 0x230000 = .ok .accAbort ∧ decodeCmd 0x240000 = .ok .accClr ∧
    decodeCmd 0x250000 = .ok .accRdcnt ∧ decodeCmd 0x26FFFF = .ok (.accRdbuf 0xFFFF) ∧
    decodeCmd 0x270000 = .ok .accRdstat ∧ decodeCmd 0x280000 = .ok .accRdexp ∧ decodeCmd 0x290000 = .ok .accRdtmo ∧
    decodeCmd 0x2A0000 = .ok .accRdtmr := by decide

theorem test_decode_events :
    decode (.rx 0b100111011) = .ok (.rxByte 0x3B) ∧ decode (.rx 0b000111011) = .error .noStrobe ∧
    decode (.tick 1) = .ok .tick ∧ decode (.tick 0) = .error .noStrobe := by decide

/-- V65: the operand is irrelevant. -/
theorem test_decode_illegal :
    decodeCmd 0x7F0000 = .error .illegalOpcode ∧ decodeCmd 0x060000 = .error .illegalOpcode ∧
    decodeCmd 0x120000 = .error .illegalOpcode ∧ decodeCmd 0x2B0000 = .error .illegalOpcode ∧
    decodeCmd 0x31FFFF = .error .illegalOpcode ∧ decodeCmd 0xFF0000 = .error .illegalOpcode ∧
    decodeCmd 0x0F1234 = .error .illegalOpcode := by decide

/-- V66. -/
theorem test_decode_reserved :
    decodeCmd 0x010001 = .error .reservedOperand ∧ decodeCmd 0x020100 = .error .reservedOperand ∧
    decodeCmd 0x02FFFF = .error .reservedOperand ∧ decodeCmd 0x270001 = .error .reservedOperand ∧
    decodeCmd 0x308000 = .error .reservedOperand ∧ decodeCmd 0x000001 = .error .reservedOperand ∧
    decodeCmd 0x230100 = .error .reservedOperand := by decide

/-- The bits of rows of spec/opcode_table.json: a command, the nine bits of `RX.BYTE` in two bytes, the one bit of `TICK`. -/
theorem test_decodeTableWord :
    decodeTableWord 24 0x220000 = some .accStart ∧ decodeTableWord 16 0x13B = some (.rxByte 0x3B) ∧
    decodeTableWord 8 1 = some .tick ∧ decodeTableWord 24 0x7F0000 = none ∧ decodeTableWord 16 0x03B = none := by decide

/-- R67's words, encoded. -/
theorem test_encode :
    encode (.crcUpd 0x2A) = .cmd 0x02002A ∧ encode (.accSettmo 1000) = .cmd 0x2103E8 ∧ encode .accStart = .cmd 0x220000 ∧
    encode (.rxByte 0x3B) = .rx 0x13B ∧ encode .tick = .tick 1 := by decide

/-! ## The buffer -/

/-- Writing the value an unlisted cell reads as removes the cell. -/
theorem test_memory_canonical : Memory.write (Memory.write [] 3 0x55) 3 0x00 = [] := by decide

/-- Cells stand in rising order whatever the order of the writes. -/
theorem test_memory_order : Memory.write (Memory.write [] 3 0x55) 1 0xAA = [(1, 0xAA), (3, 0x55)] := by decide

/-! ## The CRC functions -/

/-- V14. -/
theorem test_crcStep : crcStep 0x0000 0x01 = 0xC0C1 ∧ crcStep 0x0001 0x00 = 0xC0C1 ∧ crcStep 0xFFFF 0xFF = 0x00FF := by decide

set_option maxRecDepth 4000 in
/-- V6: the CRC of a request, and its bytes on the wire. -/
theorem test_crc16 : crc16 [0x01, 0x03, 0x00, 0x00, 0x00, 0x02] = 0x0BC4 ∧ crcBytes 0x0BC4 = [0xC4, 0x0B] := by decide

set_option maxRecDepth 4000 in
/-- V19, V20, V21, V23. -/
theorem test_validate :
    validate [0x01, 0x83, 0x02, 0xC0, 0xF1] = true ∧ validate [] = false ∧ validate [0x55] = false ∧
    validate [0xFF, 0xFF] = true ∧ validate [0x00, 0x00] = false ∧
    validate [0x01, 0x83, 0x02, 0xF1, 0xC0] = false := by decide

/-! ## One step of each operation -/

/-- V71. -/
theorem test_nop : nextMeets (exec .nop State.reset) (fun t => t.rsp = some ⟨false, 0⟩ ∧ statusWord t = 0x0000) := by decide

/-- V29. -/
theorem test_crcInit : nextMeets (exec .crcInit { State.reset with crc := 0x1234 }) (fun t => t.crc = 0xFFFF) := by decide

/-- V30. -/
theorem test_crcUpd : nextMeets (exec (.crcUpd 0x01) State.reset) (fun t => t.crc = 0x807E) := by decide

/-- V31. -/
theorem test_crcRdlo :
    nextMeets (exec .crcRdlo { State.reset with crc := 0x0BC4 }) (fun t => t.rsp = some ⟨false, 0x00C4⟩) := by decide

/-- V31. -/
theorem test_crcRdhi :
    nextMeets (exec .crcRdhi { State.reset with crc := 0x0BC4 }) (fun t => t.rsp = some ⟨false, 0x000B⟩) := by decide

/-- V31. -/
theorem test_crcRd :
    nextMeets (exec .crcRd { State.reset with crc := 0x0BC4 }) (fun t => t.rsp = some ⟨false, 0x0BC4⟩) := by decide

set_option maxRecDepth 4000 in
/-- R110's example, V36. -/
theorem test_valRun :
    nextMeets (exec .valRun replyFrame)
      (fun t => t.rsp = some ⟨false, 1⟩ ∧ t.vcrc = 0x3B1A ∧ statusWord t = 0x0066) := by decide

/-- V38: one byte is too short. -/
theorem test_valRun_short :
    nextMeets (exec .valRun strayByte)
      (fun t => t.rsp = some ⟨false, 0⟩ ∧ t.vcrc = 0xFFFF ∧ statusWord t = 0x00AA) := by decide

/-- V43. -/
theorem test_valRdcrc : nextMeets (exec .valRdcrc State.reset) (fun t => t.rsp = some ⟨false, 0xFFFF⟩) := by decide

/-- V69. -/
theorem test_accSetexp_open :
    nextMeets (exec (.accSetexp 5) emptyWindow) (fun t => t.rsp = some ⟨true, 3⟩ ∧ t.expected = 9) := by decide

/-- V68. -/
theorem test_accSettmo : nextMeets (exec (.accSettmo 0xFFFF) State.reset) (fun t => t.timeout = 0xFFFF) := by decide

/-- R124's example. -/
theorem test_accStart : nextMeets (exec .accStart State.reset) (fun t => statusWord t = 0x0001) := by decide

/-- V46: both limits 0, the quota wins. -/
theorem test_accStart_closes :
    nextMeets (exec .accStart { State.reset with expected := 0, timeout := 0 }) (fun t => statusWord t = 0x0006) := by decide

/-- R125's example: the eight bytes stay. -/
theorem test_accAbort : nextMeets (exec .accAbort almostReply) (fun t => statusWord t = 0x000E ∧ t.count = 8) := by decide

/-- R126. -/
theorem test_accClr : nextMeets (exec .accClr replyFrame) (fun t => statusWord t = 0x0000 ∧ t.count = 0) := by decide

/-- R127's example. -/
theorem test_accRdcnt : nextMeets (exec .accRdcnt replyFrame) (fun t => t.rsp = some ⟨false, 9⟩) := by decide

/-- R128's example. -/
theorem test_accRdbuf : nextMeets (exec (.accRdbuf 2) replyFrame) (fun t => t.rsp = some ⟨false, 0x0004⟩) := by decide

/-- R42: a byte left in the buffer at an index not below `COUNT` cannot be read. -/
theorem test_accRdbuf_gated :
    nextMeets (exec (.accRdbuf 8) { replyFrame with count := 8 }) (fun t => t.rsp = some ⟨false, 0x0000⟩) := by decide

/-- R26's example. -/
theorem test_accRdstat :
    nextMeets (exec .accRdstat { replyFrame with reason := .tmo, vdone := true, crcok := true })
      (fun t => t.rsp = some ⟨false, 0x006A⟩) := by decide

/-- V43. -/
theorem test_accRdexp : nextMeets (exec .accRdexp State.reset) (fun t => t.rsp = some ⟨false, 0xFFFF⟩) := by decide

/-- V43. -/
theorem test_accRdtmo : nextMeets (exec .accRdtmo State.reset) (fun t => t.rsp = some ⟨false, 0x03E8⟩) := by decide

/-- R132's example. -/
theorem test_accRdtmr : nextMeets (exec .accRdtmr strayByte) (fun t => t.rsp = some ⟨false, 5⟩) := by decide

/-- R161's example. -/
theorem test_errClr :
    nextMeets (exec .errClr { replyFrame with reason := .abort, cmderr := true, lasterr := some .badState })
      (fun t => statusWord t = 0x000E) := by decide

/-- R133's example. -/
theorem test_rxByte_quota :
    nextMeets (exec (.rxByte 0x3B) almostReply)
      (fun t => candidateFrame t = reply ∧ t.count = 9 ∧ statusWord t = 0x0006) := by decide

/-- R133 corner case (2), V50: the byte is dropped, the window stays open. -/
theorem test_rxByte_overflow :
    nextMeets (exec (.rxByte 0x99) fullWindow) (fun t => statusWord t = 0x0011 ∧ t.buf = fullWindow.buf) := by decide

/-- R134's example. -/
theorem test_tick : nextMeets (exec .tick almostReply) (fun t => t.timer = 5 ∧ statusWord t = 0x000A) := by decide

/-- V48. -/
theorem test_tick_idle : nextMeets (exec .tick State.reset) (fun t => t = State.reset) := by decide

/-! ## One cycle -/

/-- V62: the command saw `OPEN`, the byte of its cycle still closed the window. -/
theorem test_step_command_before_byte :
    nextMeets (step (presented ⟨false, some 0x200005, 0x13B, 0⟩ almostReply))
      (fun t => t.rsp = some ⟨true, 3⟩ ∧ statusWord t = 0x0706) := by decide

/-- V60: the byte fills the quota first, the tick finds the window closed. -/
theorem test_step_byte_before_tick :
    nextMeets (step (presented ⟨false, none, 0x13B, 1⟩ almostReply)) (fun t => statusWord t = 0x0006 ∧ t.timer = 4) := by decide

/-- V64. -/
theorem test_step_reset :
    nextMeets (step (presented ⟨true, some 0x270000, 0x103, 1⟩ busy))
      (fun t => t = { State.reset with buf := busy.buf }) := by decide

/-- `withFetchWord` places a command, a byte, a tick where the next step takes it. -/
theorem test_withFetchWord :
    nextMeets (step (State.reset.withFetchWord 24 0x7F0000)) (fun t => t.rsp = some ⟨true, 1⟩) ∧
    nextMeets (step (emptyWindow.withFetchWord 16 0x155)) (fun t => t.count = 1) ∧
    nextMeets (step (emptyWindow.withFetchWord 8 1)) (fun t => t.timer = 1) := by decide

/-! ## Witnesses: for every statement with hypotheses, terms that meet them all, each clause at a boundary of its range -/

/-- The outcome is this very state. -/
def isNext (o : Host.Outcome State Fault Refusal) (t : State) : Bool := nextMeets o fun u => u = t

theorem witness_DecodeOfEncodeIsTheOperation : (Instr.crcUpd 0xFF).wf = true := by decide
theorem witness_DecodedWordIsTheEncoding : decode (.cmd 0x0200FF) = .ok (.crcUpd 0xFF) := by decide

theorem witness_DecoderAgreesWithMatchAndMask :
    decodeCmd 0x0200FF = .ok (.crcUpd 0xFF) ∧ ⟨"CRC.UPD", .b, 0x020000, 0xFFFF00⟩ ∈ commandTable ∧
    TableRow.selects ⟨"CRC.UPD", .b, 0x020000, 0xFFFF00⟩ 0x0200FF = true := by decide

theorem witness_StepRunsTheDecodedOperation :
    ((presented ⟨false, some 0x220000, 0, 0⟩ emptyWindow).pending = ⟨false, some 0x220000, 0, 0⟩ :: [] ∧
      decode (.cmd 0x220000) = .ok .accStart) ∧
    ((presented ⟨false, none, 0x1FF, 0⟩ emptyWindow).pending = ⟨false, none, 0x1FF, 0⟩ :: [] ∧
      decode (.rx 0x1FF) = .ok (.rxByte 0xFF)) ∧
    ((presented ⟨false, none, 0, 1⟩ emptyWindow).pending = ⟨false, none, 0, 1⟩ :: [] ∧ decode (.tick 1) = .ok .tick) ∧
    decodeTableWord 24 0x220000 = some .accStart ∧ decodeTableWord 9 0x1FF = some (.rxByte 0xFF) ∧
    decodeTableWord 1 1 = some .tick := by decide

/-- The three parts of a cycle, one after the other, from the state a command part begins in. -/
def stagesMeet (c : Cycle) (s : State) (p : State → Bool) : Bool :=
  nextMeets (commandStage c.cmd s) fun s1 =>
    nextMeets (eventStage (decodeRx c.rx) s1) fun s2 => nextMeets (eventStage (decodeTick c.tick) s2) p

/-- A command, legal or refused, or none; a byte or none (`rx_data` is free then); a tick or none. -/
theorem witness_CycleTakesCommandThenByteThenTick :
    (commandTakes none almostReply almostReply ∧ commandTakes (some 0x000000) almostReply (answered 0 almostReply) ∧
      commandTakes (some 0x7F0000) almostReply (refusedWith .illegalOpcode almostReply)) ∧
    (byteTakes 0x0FF almostReply almostReply ∧ byteTakes (rxWord 0xFF) State.reset State.reset) ∧
    (tickTakes 0 almostReply almostReply ∧ tickTakes 1 State.reset State.reset) := by
  refine ⟨⟨.inl ⟨rfl, rfl⟩, .inr ⟨_, rfl, .inl ⟨.nop, by decide, rfl⟩⟩, .inr ⟨_, rfl, .inr ⟨_, by decide, rfl⟩⟩⟩,
    ⟨.inl (by decide), .inr ⟨_, rfl, rfl⟩⟩, .inl (by decide), .inr ⟨rfl, rfl⟩⟩

/-- V60, V62 and a cycle of a command and a tick without a byte, by their parts: each is the cycle's step. -/
theorem witness_CycleTakesCommandThenByteThenTick_runs :
    (stagesMeet ⟨false, none, 0x13B, 1⟩ almostReply fun t => statusWord t = 0x0006 ∧ t.timer = 4) = true ∧
    (stagesMeet ⟨false, some 0x200005, 0x13B, 0⟩ almostReply fun t => statusWord t = 0x0706) = true ∧
    (stagesMeet ⟨false, some 0x230000, 0, 1⟩ almostReply fun t => statusWord t = 0x000E ∧ t.timer = 4) = true := by decide

theorem witness_SameCycleRacesAreDecided :
    (almostReply.astate = .opened ∧ almostReply.count.toNat < almostReply.cfg.bufSize ∧ almostReply.cfg.wf = true ∧
      (presented ⟨false, none, rxWord 0x3B, 1⟩ almostReply).pending = ⟨false, none, rxWord 0x3B, 1⟩ :: []) ∧
    (replyFrame.astate ≠ .opened ∧ replyFrame.expected ≠ 0 ∧ replyFrame.timeout ≠ 0 ∧ replyFrame.cfg.wf = true ∧
      (presented ⟨false, some 0x220000, rxWord 0x3B, 0⟩ replyFrame).pending = ⟨false, some 0x220000, rxWord 0x3B, 0⟩ :: []) := by
  decide

theorem witness_AbortClosesAnOpenWindow :
    emptyWindow.astate = .opened ∧ replyFrame.astate ≠ .opened ∧ State.reset.astate ≠ .opened ∧
    (presented ⟨false, some 0x230000, rxWord 0x3B, 1⟩ emptyWindow).pending = ⟨false, some 0x230000, rxWord 0x3B, 1⟩ :: [] := by
  decide

theorem witness_QuietCycleChangesNothing :
    busy.pending = [] ∧ (presented ⟨false, none, 0x0FF, 0⟩ busy).pending = ⟨false, none, (0xFF : Byte).setWidth 9, 0⟩ :: [] := by
  decide

theorem witness_ResetOverridesTheWholeCycle :
    (presented ⟨true, some 0x270000, 0x103, 1⟩ busy).pending = ⟨true, some 0x270000, 0x103, 1⟩ :: [] := by decide

/-- No command, a command that succeeds, one the decoder refuses, one the state refuses. -/
theorem witness_EveryAcceptedCommandHasOneResponse :
    (nextMeets (step emptyWindow) (fun t => t.rsp = none) = true) ∧
    (nextMeets (step (presented ⟨false, some 0x000000, 0, 1⟩ emptyWindow)) (fun t => t.rsp = some ⟨false, 0⟩) = true) ∧
    (nextMeets (step (presented ⟨false, some 0x020100, 0, 1⟩ emptyWindow)) (fun t => t.rsp = some ⟨true, 2⟩) = true) ∧
    (nextMeets (step (presented ⟨false, some 0x220000, 0, 1⟩ emptyWindow)) (fun t => t.rsp = some ⟨true, 3⟩) = true) := by
  decide

theorem witness_UndecodableCommandIsRefused :
    decodeCmd 0x31FFFF = .error .illegalOpcode ∧ decodeCmd 0x020100 = .error .reservedOperand := by decide

theorem witness_BadStateCommandIsRefused :
    preconditionFails State.reset .valRun ∧ preconditionFails emptyWindow .valRun ∧
    preconditionFails emptyWindow (.accSetexp 5) ∧ preconditionFails emptyWindow (.accSettmo 5) ∧
    preconditionFails emptyWindow .accStart ∧ preconditionFails emptyWindow .accClr := by simp [preconditionFails]; decide

theorem witness_FirstFailingCheckNamesTheError :
    State.reset.astate = .idle ∧ decodeCmd 0x020100 = .error .reservedOperand ∧
    (decodeCmd 0x20FFFF = .ok (.accSetexp 0xFFFF) ∧ preconditionFails emptyWindow (.accSetexp 0xFFFF)) ∧ opcodeIllegal 0x06 ∧ opcodeIllegal 0x0F ∧ opcodeIllegal 0x12 ∧ opcodeIllegal 0x1F ∧
    opcodeIllegal 0x2B ∧ opcodeIllegal 0x2F ∧ opcodeIllegal 0x31 ∧ opcodeIllegal 0xFF := by
  simp [opcodeIllegal, preconditionFails]; decide

theorem witness_RefusedCommandsHaveNoOtherEffect :
    isNext (runCommand 0x020100 busy) (refusedWith .reservedOperand busy) = true ∧
    nextMeets (runCommand 0x300000 busy) (fun t => t.rsp = some ⟨false, 0⟩) = true ∧
    nextMeets (runCommand 0x220000 replyFrame) (fun t => t.rsp = some ⟨false, 0⟩) = true := by decide

theorem witness_ErrorRecordChangesOnlyByRefusalAndErrClr :
    nextMeets (step (presented ⟨false, some 0x7F0000, 0, 0⟩ busy)) (fun t => t.lasterr = some .illegalOpcode) = true ∧
    nextMeets (step (presented ⟨false, some 0x300000, 0, 0⟩ busy)) (fun t => t.lasterr = none) = true ∧
    nextMeets (step (presented ⟨false, some 0x000000, 0, 0⟩ busy)) (fun t => t.lasterr = some .badState) = true ∧
    (SameButErrorRecord (presented ⟨false, some 0x7F0000, 0x155, 1⟩ busy)
        { presented ⟨false, some 0x7F0000, 0x155, 1⟩ busy with cmderr := false, lasterr := none } ∧
      (nextCycle (presented ⟨false, some 0x7F0000, 0x155, 1⟩ busy)).cmd ≠ some 0x270000 ∧
      nextMeets (step (presented ⟨false, some 0x7F0000, 0x155, 1⟩ busy)) (fun t => t.rsp = some ⟨true, 1⟩) = true) :=
  ⟨by decide, by decide, by decide, rfl, by decide, by decide⟩

/-- The block's step answers a next state, in both timeout modes: a byte that restarts the timer and no response (R16); a read of
`TIMER`, answered, before the byte of its cycle, which leaves the timer (R7, R132). -/
theorem test_blockStep :
    (match blockStep ⟨256, true⟩ ⟨false, none, 0x155, 0⟩ almostReply.toArch with
      | .next (a, r) => decide (a.timer = 0 ∧ r = none)
      | .fault _ => false
      | .refused _ => false) = true ∧
    (match blockStep ⟨256, false⟩ ⟨false, some 0x2A0000, 0x155, 0⟩ almostReply.toArch with
      | .next (a, r) => decide (a.timer = 4 ∧ r = some ⟨false, 4⟩)
      | .fault _ => false
      | .refused _ => false) = true := by decide

theorem witness_FramesEndInTheirCrcLowByteFirst : [(0x55 : Byte)].length < 2 := by decide
theorem witness_ValidityIsTheZeroResidue : 2 ≤ [(0xFF : Byte), 0xFF].length := by decide

/-- V2: `append_crc(00)` is `00 BF 40`; its first byte, its last byte, and the last two. -/
theorem witness_CorruptedBytesAreDetected :
    (2 < [(0x00 : Byte)].length + 2 ∧ corruptAt 2 [0x01] [0x00, 0xBF, 0x40] = [0x00, 0xBF, 0x41]) ∧
    (1 + 1 < [(0x00 : Byte)].length + 2 ∧ corruptAt 1 [0x00, 0x01] [0x00, 0xBF, 0x40] = [0x00, 0xBF, 0x41]) ∧
    appendCrc [0x00] = [] ++ 0x00 :: [0xBF, 0x40] ∧ appendCrc [0x00] = [0x00, 0xBF] ++ 0x40 :: [] ∧
    appendCrc [0x00] = [0x00] ++ 0xBF :: 0x40 :: [] ∧ (0x01 : Byte) ≠ 0 := by decide

/-- Other operations between two pieces, with no `CRC.INIT`, and the bytes they feed. -/
def piecewise : List Instr := [.crcUpd 0x01, .rxByte 0x55, .crcRd, .accStart, .crcUpd 0x03]

theorem witness_CrcMayBeFedInPieces :
    Instr.crcInit ∉ piecewise ∧ fedBytes piecewise = [0x01, 0x03] ∧
    nextMeets (execAll piecewise busy) (fun _ => true) = true ∧
    nextMeets (execAll (.crcInit :: piecewise) busy) (fun _ => true) = true := by decide

theorem witness_TrailingZerosStillValidate : validate [0xFF, 0xFF] = true ∧ [(0x00 : Byte), 0x00].length ≤ 2 := by decide

/-- For `operandReserved` in SystemCommandsTouchOnlyTheErrorRecord, CrcWritesTouchOnlyCrc, CrcReadsAnswerTheRegister,
RegisterReadsAnswerTheRegister, StatusWordHoldsEveryField and the window commands: the least operand and the greatest, and the
least of `CRC.UPD`. -/
theorem witness_reserved_operands : (1 : Half) ≠ 0 ∧ (0xFFFF : Half) ≠ 0 ∧ 256 ≤ (0x0100 : Half).toNat := by decide

theorem witness_StatusWordHoldsEveryField :
    { replyFrame with reason := .tmo, vdone := true, crcok := true }.astate = .done ∧ replyFrame.ovf = false ∧
    replyFrame.short = false ∧ replyFrame.cmderr = false ∧ replyFrame.lasterr = none := by decide

theorem witness_BufferReadIsGatedByCount :
    replyFrame.count ≤ (9 : Half) ∧ replyFrame.count ≤ (0xFFFF : Half) ∧ (8 : Half) < replyFrame.count ∧
    (8 : Half).toNat < replyFrame.cfg.bufSize ∧ (1 : Half) < smallFrame.count ∧ (1 : Half).toNat < smallFrame.cfg.bufSize := by
  decide

/-- For ConfigurationCommandsLoadTheirRegister, StartOpensAWindow, ClearDropsTheFrame: a state of each kind. -/
theorem witness_window_commands :
    State.reset.astate ≠ .opened ∧ replyFrame.astate ≠ .opened ∧ emptyWindow.astate = .opened := by decide

/-- Windows at which each of R121's two comparisons just holds, and one at which both just fail. -/
def quotaMet : State := { emptyWindow with count := 9 }
/-- See `quotaMet`. -/
def timeoutMet : State := { almostReply with timer := 5 }

theorem witness_CloseTestIsQuotaThenTimeout :
    State.reset.astate ≠ .opened ∧ (quotaMet.astate = .opened ∧ quotaMet.expected.toNat ≤ quotaMet.count.toNat) ∧
    (timeoutMet.astate = .opened ∧ timeoutMet.count.toNat < timeoutMet.expected.toNat ∧
      timeoutMet.timeout.toNat ≤ timeoutMet.timer.toNat) ∧
    (almostReply.astate = .opened ∧ almostReply.count.toNat < almostReply.expected.toNat ∧
      almostReply.timer.toNat < almostReply.timeout.toNat) := by decide

theorem witness_ValidationOfAShortFrame :
    strayByte.astate = .done ∧ strayByte.count.toNat < 2 ∧ { strayByte with count := 0 }.count.toNat < 2 ∧
    State.reset.astate ≠ .done ∧ emptyWindow.astate ≠ .done := by decide

theorem witness_ValidationOfAFrame :
    smallFrame.astate = .done ∧ 2 ≤ smallFrame.count.toNat ∧ smallFrame.count.toNat ≤ smallFrame.cfg.bufSize := by decide

/-- A block whose next window is to close at once (R122: `h` = 0). -/
def emptyQuota : State := { State.reset with expected := 0 }
theorem emptyQuota_inv : emptyQuota.Inv := by constructor <;> decide

set_option maxRecDepth 8000 in
/-- A window closed by its quota, and one whose `ACC.START` closes it; the row of the overflow is met by an abort. -/
theorem witness_OutcomesAreTheTables :
    (nextMeets (exec (.rxByte 0x3B) almostReply) fun t => t.astate = .done ∧
      nextMeets (exec .valRun t) fun u => u.reason = .quota ∧ u.crcok) = true ∧
    (nextMeets (exec .accStart emptyQuota) fun t => t.astate = .done ∧
      nextMeets (exec .valRun t) fun u => u.reason = .quota ∧ u.short) = true ∧
    (nextMeets (exec .accAbort { fullWindow with ovf := true }) fun t => t.astate = .done ∧
      nextMeets (exec .valRun t) fun u => u.reason = .abort ∧ u.ovf ∧ !u.crcok) = true := by decide

/-- With `almostReply_inv` and `emptyQuota_inv`, the premise of OutcomesAreTheTables. -/
theorem overflowed_inv : { fullWindow with ovf := true }.Inv := by constructor <;> decide

theorem witness_ReceivedByteIsAppendedOrDropped :
    State.reset.astate ≠ .opened ∧ almostReply.astate = .opened ∧ almostReply.count.toNat < almostReply.cfg.bufSize ∧
    fullWindow.astate = .opened ∧ fullWindow.cfg.bufSize ≤ fullWindow.count.toNat := by decide

theorem witness_TickIsCountedInAWindow : replyFrame.astate ≠ .opened ∧ almostReply.astate = .opened := by decide

theorem witness_EventsCloseForTheirOwnReason :
    almostReply.Inv ∧ almostReply.astate = .opened ∧
    nextMeets (exec (.rxByte 0x3B) almostReply) (fun t => t.astate = .done) = true ∧
    nextMeets (exec .tick almostReply) (fun t => t.astate = .done) = true ∧
    { fullWindow with ovf := true }.Inv ∧ { fullWindow with ovf := true }.astate = .opened := by
  exact ⟨almostReply_inv, by decide, by decide, by decide, overflowed_inv, by decide⟩

/-- For CrcRegistersAreWrittenOnlyByTheirCommands and ConfigurationIsFrozenInAWindow: steps that go on, each of the commands
named among them. -/
theorem witness_registers_written_by_a_step :
    nextMeets (step (presented ⟨false, some 0x010000, 0, 0⟩ busy)) (fun t => t.crc = 0xFFFF) = true ∧
    nextMeets (step (presented ⟨false, some 0x020001, 0x155, 1⟩ State.reset)) (fun t => t.crc = 0x807E) = true ∧
    nextMeets (step (presented ⟨false, some 0x100000, 0, 0⟩ strayByte)) (fun t => t.vcrc = 0xFFFF) = true ∧
    nextMeets (step (presented ⟨false, some 0x200000, 0, 0⟩ replyFrame)) (fun t => t.expected = 0) = true ∧
    nextMeets (step (presented ⟨false, some 0x21FFFF, 0, 0⟩ replyFrame)) (fun t => t.timeout = 0xFFFF) = true := by decide

/-- For CountersMoveOnlyAsStated, FrameFlagsChangeOnlyAsStated and BufferIsWrittenOnlyAtCount: operations that go on, one for
each clause. -/
theorem witness_state_written_by_an_operation :
    nextMeets (exec .accStart replyFrame) (fun t => t.count = 0 ∧ t.timer = 0) = true ∧
    nextMeets (exec (.rxByte 0xFF) silenceWindow) (fun t => t.count = 1 ∧ t.timer = 0) = true ∧
    nextMeets (exec .tick emptyWindow) (fun t => t.timer = 1) = true ∧
    nextMeets (exec (.rxByte 0xFF) fullWindow) (fun t => t.ovf = true) = true ∧
    nextMeets (exec .valRun strayByte) (fun t => t.vdone = true ∧ t.short = true) = true := by decide

theorem witness_TransitionsAreTheTables :
    almostReply.Inv ∧ nextMeets (exec .tick almostReply) (fun t => t.reason = .tmo) = true ∧
    (nextCycle (presented ⟨true, none, 0, 0⟩ busy)).rst = true :=
  ⟨almostReply_inv, by decide, by decide⟩

theorem witness_ClosedFrameIsFrozen :
    replyFrame.astate = .done ∧ nextMeets (exec (.rxByte 0x99) replyFrame) (fun t => t.count = 9) = true := by decide

theorem witness_DoneOutputIsALevel :
    doneOut replyFrame = true ∧ nextMeets (exec .tick replyFrame) (fun t => doneOut t) = true ∧
    doneOut almostReply = false ∧ nextMeets (exec .tick almostReply) (fun t => doneOut t) = true := by decide

theorem witness_StepKeepsTheInvariants :
    almostReply.Inv ∧ nextMeets (step (presented ⟨false, none, 0, 1⟩ almostReply)) (fun _ => true) = true :=
  ⟨almostReply_inv, by decide⟩

theorem witness_EveryStepGoesOn : replyFrame.Inv := replyFrame_inv

/-- Two states that differ in a byte above `COUNT`, and a byte written over the difference. -/
theorem witness_BytesAboveCountAreUnobservable :
    SameBelowCount { almostReply with buf := replyCells ++ [(8, 0x77)] } { almostReply with buf := replyCells ++ [(8, 0x11)] } ∧
    nextMeets (step (presented ⟨false, none, 0x13B, 0⟩ { almostReply with buf := replyCells ++ [(8, 0x77)] }))
      (fun t => candidateFrame t = reply) = true := by
  refine ⟨⟨rfl, ?_⟩, by decide⟩
  decide

theorem witness_FixedDeadlineIsHonoured :
    (almostReply.Inv ∧ almostReply.astate = .opened ∧ almostReply.cfg.timeoutRestart = false) ∧
    almostReply.timeout.toNat ≤ almostReply.timer.toNat + [Instr.accStart, .tick, .accStart].count .tick ∧
    ((∀ i ∈ [Instr.nop, .tick], i ≠ .accStart ∧ i ≠ .accClr) ∧
      almostReply.timeout.toNat ≤ almostReply.timer.toNat + [Instr.nop, .tick].count .tick) :=
  ⟨⟨almostReply_inv, by decide, by decide⟩, by decide, by decide, by decide⟩

theorem witness_SilenceModeClosesOnlyOnSilence :
    (almostReply.Inv ∧ almostReply.astate = .opened ∧ almostReply.timeout.toNat ≤ almostReply.timer.toNat + 1) ∧
    (silenceWindow.Inv ∧ silenceWindow.astate = .opened ∧ silenceWindow.cfg.timeoutRestart = true ∧ silenceWindow.timer = 0 ∧
      silenceWindow.cfg.bufSize < silenceWindow.expected.toNat ∧
      ∀ p ∈ [(4, (0x01 : Byte)), (0, 0x02)], p.1 < silenceWindow.timeout.toNat) :=
  ⟨⟨almostReply_inv, by decide, by decide⟩, silenceWindow_inv, by decide, by decide, by decide, by decide, by decide⟩

theorem witness_ValStreamAnswersTheResidue : 2 ≤ [(0xFF : Byte), 0xFF].length := by decide

/-- A block that restarts its timer, with no window open. -/
def silentBlock : State := { State.reset with cfg := ⟨2, true⟩ }
theorem silentBlock_inv : silentBlock.Inv := by constructor <;> decide

theorem witness_ReceivedFrameIsValidated :
    (replyFrame.Inv ∧ replyFrame.astate ≠ .opened ∧ reply.length ≤ replyFrame.cfg.bufSize ∧ (reply = [] ∨ (1 : Half) ≠ 0) ∧
      ([] = ([] : List Byte) ∨ (0 : Half) ≠ 0) ∧ reply ≠ []) ∧
    (if replyFrame.cfg.timeoutRestart = true then ∀ p ∈ [(4, (0xFF : Byte)), (4, 0xFF)], p.1 < (9 : Half).toNat
      else [(4, (0xFF : Byte)), (4, 0xFF)] = [] ∨ ([(4, (0xFF : Byte)), (4, 0xFF)].map Prod.fst).sum < (9 : Half).toNat) ∧
    (silentBlock.Inv ∧ silentBlock.astate ≠ .opened ∧ [(4, (0xFF : Byte)), (4, 0xFF)].length ≤ silentBlock.cfg.bufSize ∧
      if silentBlock.cfg.timeoutRestart = true then ∀ p ∈ [(4, (0xFF : Byte)), (4, 0xFF)], p.1 < (5 : Half).toNat
        else [(4, (0xFF : Byte)), (4, 0xFF)] = [] ∨ ([(4, (0xFF : Byte)), (4, 0xFF)].map Prod.fst).sum < (5 : Half).toNat) :=
  ⟨⟨replyFrame_inv, by decide, by decide, by decide, by decide, by decide⟩, by decide, silentBlock_inv, by decide, by decide,
    by decide⟩

end Sys2Proof.Tests
end

section
/-! PROOFS. The family 00_scope.md: what one clock cycle runs, and in which order (R7, R8, R173). First the rules of a cycle's
parts, then the rules of a byte, a tick and an opened window that the races of R7 rest on, then the three statements. -/

namespace Sys2Proof.Machine

open Sys2Proof.Spec

/-! ## The cycle at the head of the queue -/

@[simp] theorem commandStage_none (s : State) : commandStage none s = .next s := rfl
@[simp] theorem commandStage_some (w : Word24) (s : State) : commandStage (some w) s = runCommand w s := rfl
@[simp] theorem eventStage_none (s : State) : eventStage none s = .next s := rfl
@[simp] theorem eventStage_some (i : Instr) (s : State) : eventStage (some i) s = exec i s := rfl

/-- Nothing after an operation is the operation alone. -/
@[simp] theorem andThen_next_right (o : Host.Outcome State Fault Refusal) : andThen o .next = o := by
  cases o <;> rfl

/-- Without its strobe the receive port carries no event, whatever `rx_data` is (R66). -/
theorem decodeRx_of_not_valid {v : BitVec 9} (h : rxValid v = false) : decodeRx v = none := by simp [decodeRx, h]

@[simp] theorem decodeRx_zero : decodeRx 0#9 = none := rfl
@[simp] theorem decodeTick_zero : decodeTick 0#1 = none := rfl
@[simp] theorem decodeTick_one : decodeTick 1#1 = some .tick := rfl

/-- A step without `rst` is the three parts of the cycle at the head of the queue, in their order (R7). -/
theorem step_of_pending {s : State} {c : Cycle} {rest : List Cycle} (h : s.pending = c :: rest) (hr : c.rst = false) :
    step s = andThen (commandStage c.cmd { s with pending := rest, rsp := none }) fun s1 =>
      andThen (eventStage (decodeRx c.rx) s1) fun s2 => eventStage (decodeTick c.tick) s2 := by
  simp [step, runCycle, nextCycle, dropCycle, h, hr]

/-- The three parts of a cycle, each going on from where the one before it ended, make up the step (R7). -/
theorem step_of_stages {s s1 s2 s3 : State} {c : Cycle} {rest : List Cycle} (h : s.pending = c :: rest) (hr : c.rst = false)
    (hc : commandStage c.cmd { s with pending := rest, rsp := none } = .next s1)
    (hb : eventStage (decodeRx c.rx) s1 = .next s2) (ht : eventStage (decodeTick c.tick) s2 = .next s3) :
    step s = .next s3 := by
  rw [step_of_pending h hr, hc, andThen_next, hb, andThen_next, ht]

/-! ## One operation alone in its cycle -/

theorem decode_cmd_eq_ok {w : Word24} {i : Instr} : decode (.cmd w) = .ok i ↔ decodeCmd w = .ok i := by
  cases h : decodeCmd w <;> simp [decode, h]

theorem decode_rx_eq_ok {v : BitVec 9} {i : Instr} : decode (.rx v) = .ok i ↔ decodeRx v = some i := by
  cases h : decodeRx v <;> simp [decode, h]

theorem decode_tick_eq_ok {v : BitVec 1} {i : Instr} : decode (.tick v) = .ok i ↔ decodeTick v = some i := by
  cases h : decodeTick v <;> simp [decode, h]

/-- What the bits of a row read as is what the word of the row's port decodes to. -/
theorem decodeTableWord_eq_some {nbits w : Nat} {i : Instr} :
    decodeTableWord nbits w = some i ↔ ∃ p, portWordOf nbits w = some p ∧ decode p = .ok i := by
  cases hp : portWordOf nbits w with
  | none => simp [decodeTableWord, hp]
  | some p => cases hd : decode p <;> simp [decodeTableWord, hp, hd]

/-- A cycle that presents one word that decodes runs the decoded operation and nothing else, on any of the three ports. -/
theorem step_of_presenting {s : State} {p : PortWord} {i : Instr} {rest : List Cycle}
    (h : s.pending = Cycle.presenting p :: rest) (hd : decode p = .ok i) :
    step s = exec i { s with pending := rest, rsp := none } := by
  cases p with
  | cmd w =>
    rw [step_of_pending h rfl]
    simp [Cycle.presenting, runCommand_of_ok (decode_cmd_eq_ok.mp hd)]
  | rx v =>
    rw [step_of_pending h rfl]
    simp [Cycle.presenting, decode_rx_eq_ok.mp hd]
  | tick v =>
    rw [step_of_pending h rfl]
    simp [Cycle.presenting, decode_tick_eq_ok.mp hd]

/-- The cycle that `withFetchWord` places is the next step's, and the queue behind it is left as it was. -/
theorem step_withFetchWord {s : State} {nbits w : Nat} {i : Instr} (h : decodeTableWord nbits w = some i) :
    step (s.withFetchWord nbits w) = exec i { s with rsp := none } := by
  obtain ⟨p, hp, hd⟩ := decodeTableWord_eq_some.mp h
  have hc : (s.withFetchWord nbits w).pending = Cycle.presenting p :: s.pending := by
    simp [State.withFetchWord, cycleOfTableWord, hp]
  exact step_of_presenting hc hd

/-! ## The parts of a cycle as the statements write them -/

/-- Error entry as the statements write it out is the model's (R171). -/
theorem raiseCmdError_eq_refusedWith (e : CmdError) (s : State) : raiseCmdError e s = refusedWith e s := by
  cases e <;> rfl

theorem commandStage_of_commandTakes {cmd : Option Word24} {s t : State} (h : commandTakes cmd s t) :
    commandStage cmd s = .next t := by
  obtain ⟨rfl, rfl⟩ | ⟨w, rfl, ⟨i, hd, hx⟩ | ⟨e, hd, rfl⟩⟩ := h
  · exact commandStage_none t
  · rw [commandStage_some, runCommand_of_ok hd, hx]
  · rw [commandStage_some, runCommand_of_error hd, raiseCmdError_eq_refusedWith]

theorem rxStage_of_byteTakes {rx : BitVec 9} {s t : State} (h : byteTakes rx s t) :
    eventStage (decodeRx rx) s = .next t := by
  obtain ⟨hv, rfl⟩ | ⟨b, rfl, hx⟩ := h
  · rw [decodeRx_of_not_valid hv, eventStage_none]
  · rw [decodeRx_rxWord, eventStage_some, hx]

theorem tickStage_of_tickTakes {tick : BitVec 1} {s t : State} (h : tickTakes tick s t) :
    eventStage (decodeTick tick) s = .next t := by
  obtain ⟨rfl, rfl⟩ | ⟨rfl, hx⟩ := h
  · simp
  · simpa using hx

/-! ## A byte, a tick and an opened window -/

/-- A byte is stored when the buffer has room (R133). -/
theorem takeByte_of_room {s : State} (h : s.count.toNat < s.cfg.bufSize) (b : Byte) : takeByte b s = storeByte b s := if_pos h

/-- A byte inside a window with room is counted, and stands at the index `COUNT` had, whether or not it closes the window
(R41, R133). -/
theorem exec_rxByte_accepted {s : State} (ho : s.astate = .opened) (hroom : s.count.toNat < s.cfg.bufSize) (b : Byte) :
    ∃ t, exec (.rxByte b) s = .next t ∧ t.count = s.count + 1 ∧ Memory.read t.buf s.count.toNat = b :=
  ⟨_, exec_rxByte_of_open ho b, by simp [takeByte_of_room hroom], by simp [takeByte_of_room hroom]⟩

/-- A tick writes neither `COUNT` nor `BUF`, whether or not it closes the window (R134). -/
theorem exec_tick_keeps_bytes (s : State) : ∃ t, exec .tick s = .next t ∧ t.count = s.count ∧ t.buf = s.buf := by
  by_cases ho : s.astate = .opened
  · exact ⟨_, exec_tick_of_open ho, by simp, by simp⟩
  · exact ⟨s, exec_tick_of_not_open ho, rfl, rfl⟩

/-- With neither limit 0, `ACC.START` leaves the window open and empty (R124). -/
theorem exec_accStart_opens {s : State} (ho : s.astate ≠ .opened) (he : s.expected ≠ 0) (ht : s.timeout ≠ 0) :
    exec .accStart s = .next (respond 0 { clearWindow s with astate := .opened }) := by
  rw [exec_accStart_of_not_open ho, accCheck_of_open rfl]
  have he' : ¬ s.expected = 0#16 := he
  have ht' : ¬ s.timeout = 0#16 := ht
  simp [he', ht']

/-- A buffer has at least one cell (R5). -/
theorem bufSize_pos_of_wf {c : Config} (h : c.wf = true) : 0 < c.bufSize := by
  simp only [Config.wf, Bool.and_eq_true, decide_eq_true_eq] at h
  omega

/-! ## The statements -/

/-- Settles O6: each clause is one port of `step_of_presenting`, and `withFetchWord` places such a cycle. -/
theorem stepRunsTheDecodedOperation : Obligations.StepRunsTheDecodedOperation :=
  ⟨fun _ _ w _ h hd => step_of_presenting (p := .cmd w) h hd, fun _ _ v _ h hd => step_of_presenting (p := .rx v) h hd,
    fun _ _ v _ h hd => step_of_presenting (p := .tick v) h hd, fun _ _ _ _ h => step_withFetchWord h⟩

/-- Settles O7: each part of the cycle is its stage, and the stages in their order are the step. -/
theorem cycleTakesCommandThenByteThenTick : Obligations.CycleTakesCommandThenByteThenTick := by
  intro s s1 s2 s3 rest cmd rx tick h hc hb ht
  exact step_of_stages h rfl (commandStage_of_commandTakes hc) (rxStage_of_byteTakes hb) (tickStage_of_tickTakes ht)

/-- Settles O9, by the order of `cycleTakesCommandThenByteThenTick`: the byte precedes the tick, which writes no byte, and follows
the command, which has opened the window by then. -/
theorem sameCycleRacesAreDecided : Obligations.SameCycleRacesAreDecided := by
  constructor
  · intro s rest b ho hroom _ h
    obtain ⟨s2, hb, hcount, hread⟩ := exec_rxByte_accepted (s := { s with pending := rest, rsp := none }) ho hroom b
    obtain ⟨s3, ht, hcount', hbuf⟩ := exec_tick_keeps_bytes s2
    have hstep : step s = .next s3 :=
      cycleTakesCommandThenByteThenTick s _ s2 s3 rest none (rxWord b) 1 h (.inl ⟨rfl, rfl⟩) (.inr ⟨b, rfl, hb⟩)
        (.inr ⟨rfl, ht⟩)
    exact ⟨s3, hstep, hcount'.trans hcount, hbuf ▸ hread⟩
  · intro s rest b ho he ht hwf h
    have hstart := exec_accStart_opens (s := { s with pending := rest, rsp := none }) ho he ht
    obtain ⟨s2, hb, hcount, hread⟩ :=
      exec_rxByte_accepted (s := respond 0 { clearWindow { s with pending := rest, rsp := none } with astate := .opened })
        rfl (bufSize_pos_of_wf hwf) b
    have hstep : step s = .next s2 :=
      cycleTakesCommandThenByteThenTick s _ s2 s2 rest (some 0x220000) (rxWord b) 0 h
        (.inr ⟨_, rfl, .inl ⟨.accStart, by decide, hstart⟩⟩) (.inr ⟨b, rfl, hb⟩) (.inl ⟨rfl, rfl⟩)
    exact ⟨s2, hstep, hcount, hread⟩

end Sys2Proof.Machine
end

section
/-! PROOFS. The family 10_state.md: who writes each piece of state, and what every cycle keeps (R10 to R30). First the effect of
one operation, said once for all of them; then what an event leaves alone and what a cycle ran; then two states that differ where
an operation does not look, the invariants, and the status word; last the statements. -/

namespace Sys2Proof.Machine

open Sys2Proof.Spec

/-! ## The effect of one operation -/

/-- The commands that answer and write no state: `NOP` and the register and buffer reads. -/
def onlyAnswers : Instr → Bool
  | .nop | .crcRdlo | .crcRdhi | .crcRd | .valRdcrc | .accRdcnt | .accRdbuf _ | .accRdstat | .accRdexp | .accRdtmo
  | .accRdtmr => true
  | .crcInit | .crcUpd _ | .valRun | .accSetexp _ | .accSettmo _ | .accStart | .accAbort | .accClr | .errClr | .rxByte _
  | .tick => false

theorem exec_accAbort_of_open {s : State} (h : s.astate = .opened) :
    exec .accAbort s = .next (respond 0 (closeWindow .abort s)) := by rw [exec, execAccAbort, if_pos h]

theorem exec_accAbort_of_not_open {s : State} (h : s.astate ≠ .opened) : exec .accAbort s = .next (respond 0 s) := by
  rw [exec, execAccAbort, if_neg h]

/-- Where an operation that goes on takes the state, one constructor per way it can go. `exec_effect` ties it to `exec`; a
rule about every operation is a case split on it. The data of an answer is left open where no rule of this family needs it. -/
inductive Effect (s : State) : Instr → State → Prop
  | answer {i : Instr} (hi : onlyAnswers i = true) (v : Half) : Effect s i (respond v s)
  | refuse {i : Instr} (hi : preconditionFails s i) : Effect s i (raiseCmdError .badState s)
  | crcInit : Effect s .crcInit (respond 0 { s with crc := Config.crcInit })
  | crcUpd (b : Byte) : Effect s (.crcUpd b) (respond 0 { s with crc := crcStep s.crc b })
  | errClr : Effect s .errClr (respond 0 (clearCmdError s))
  | validateShort (hd : s.astate = .done) (hc : s.count < 2) : Effect s .valRun (respond 0 (validateShort s))
  | validateFrame (hd : s.astate = .done) (hc : 2 ≤ s.count) (v : Half) :
      Effect s .valRun (respond v (validateFrame (candidateFrame s) s))
  | setExpected (h : Half) (ho : s.astate ≠ .opened) : Effect s (.accSetexp h) (respond 0 { s with expected := h })
  | setTimeout (h : Half) (ho : s.astate ≠ .opened) : Effect s (.accSettmo h) (respond 0 { s with timeout := h })
  | start (ho : s.astate ≠ .opened) : Effect s .accStart (respond 0 (accCheck { clearWindow s with astate := .opened }))
  | clear (ho : s.astate ≠ .opened) : Effect s .accClr (respond 0 { clearWindow s with astate := .idle })
  | abort (ho : s.astate = .opened) : Effect s .accAbort (respond 0 (closeWindow .abort s))
  | abortNothing (ho : s.astate ≠ .opened) : Effect s .accAbort (respond 0 s)
  | byte (b : Byte) (ho : s.astate = .opened) : Effect s (.rxByte b) (accCheck (restartTimer (takeByte b s)))
  | byteLost (b : Byte) (ho : s.astate ≠ .opened) : Effect s (.rxByte b) s
  | tick (ho : s.astate = .opened) : Effect s .tick (accCheck { s with timer := s.timer + 1 })
  | tickLost (ho : s.astate ≠ .opened) : Effect s .tick s

/-- An operation faults, or has one of its effects. -/
theorem exec_fault_or_effect (i : Instr) (s : State) :
    (∃ f, exec i s = .fault f) ∨ ∃ t, exec i s = .next t ∧ Effect s i t := by
  cases i
  case nop | crcRdlo | crcRdhi | crcRd | valRdcrc | accRdcnt | accRdstat | accRdexp | accRdtmo | accRdtmr =>
    exact .inr ⟨_, rfl, .answer rfl _⟩
  case crcInit => exact .inr ⟨_, rfl, .crcInit⟩
  case crcUpd b => exact .inr ⟨_, rfl, .crcUpd b⟩
  case errClr => exact .inr ⟨_, rfl, .errClr⟩
  case valRun =>
    obtain ⟨hd, hx⟩ | ⟨hd, hc, hx⟩ | ⟨hd, hc, -, hx⟩ | ⟨-, -, -, hf⟩ := execValRun_cases s
    · exact .inr ⟨_, hx, .refuse hd⟩
    · exact .inr ⟨_, hx, .validateShort hd hc⟩
    · exact .inr ⟨_, hx, .validateFrame hd hc _⟩
    · exact .inl hf
  case accRdbuf h =>
    obtain ⟨b, -, hx⟩ | ⟨-, -, hf⟩ := execAccRdbuf_cases h s
    · exact .inr ⟨_, hx, .answer rfl _⟩
    · exact .inl hf
  case accSetexp h =>
    exact .inr (if ho : s.astate = .opened then ⟨_, if_pos ho, .refuse ho⟩ else ⟨_, if_neg ho, .setExpected h ho⟩)
  case accSettmo h =>
    exact .inr (if ho : s.astate = .opened then ⟨_, if_pos ho, .refuse ho⟩ else ⟨_, if_neg ho, .setTimeout h ho⟩)
  case accStart =>
    exact .inr (if ho : s.astate = .opened then ⟨_, if_pos ho, .refuse ho⟩ else ⟨_, if_neg ho, .start ho⟩)
  case accClr =>
    exact .inr (if ho : s.astate = .opened then ⟨_, if_pos ho, .refuse ho⟩ else ⟨_, if_neg ho, .clear ho⟩)
  case accAbort =>
    by_cases ho : s.astate = .opened
    · exact .inr ⟨_, exec_accAbort_of_open ho, .abort ho⟩
    · exact .inr ⟨_, exec_accAbort_of_not_open ho, .abortNothing ho⟩
  case rxByte b =>
    exact .inr (if ho : s.astate = .opened then ⟨_, if_pos ho, .byte b ho⟩ else ⟨_, if_neg ho, .byteLost b ho⟩)
  case tick =>
    exact .inr (if ho : s.astate = .opened then ⟨_, if_pos ho, .tick ho⟩ else ⟨_, if_neg ho, .tickLost ho⟩)

/-- An operation that goes on has one of its effects. -/
theorem exec_effect {i : Instr} {s t : State} (h : exec i s = .next t) : Effect s i t := by
  obtain ⟨f, hf⟩ | ⟨u, hu, he⟩ := exec_fault_or_effect i s
  · simp [hf] at h
  · rw [hu] at h
    cases h
    exact he

/-! ## The registers the events and most commands leave alone -/

/-- `CRC` after each operation (R11). -/
theorem exec_crc {i : Instr} {s t : State} (h : exec i s = .next t) :
    t.crc = s.crc ∨ (i = .crcInit ∧ t.crc = 0xFFFF) ∨ ∃ b, i = .crcUpd b ∧ t.crc = crcStep s.crc b := by
  cases exec_effect h
  case crcInit => exact .inr (.inl ⟨rfl, rfl⟩)
  case crcUpd b => exact .inr (.inr ⟨b, rfl, rfl⟩)
  all_goals simp

/-- `VCRC` is left as it was by every operation but a validation (R12). -/
theorem exec_vcrc {i : Instr} {s t : State} (h : exec i s = .next t) :
    t.vcrc = s.vcrc ∨ (i = .valRun ∧ s.astate = .done) := by
  cases exec_effect h
  case validateShort hd _ => exact .inr ⟨rfl, hd⟩
  case validateFrame hd _ _ => exact .inr ⟨rfl, hd⟩
  all_goals simp

/-- `EXPECTED` after each operation (R14). -/
theorem exec_expected {i : Instr} {s t : State} (h : exec i s = .next t) :
    t.expected = s.expected ∨ ∃ v, i = .accSetexp v ∧ s.astate ≠ .opened ∧ t.expected = v := by
  cases exec_effect h
  case setExpected v ho => exact .inr ⟨v, rfl, ho, rfl⟩
  all_goals simp

/-- `TIMEOUT` after each operation (R15). -/
theorem exec_timeout {i : Instr} {s t : State} (h : exec i s = .next t) :
    t.timeout = s.timeout ∨ ∃ v, i = .accSettmo v ∧ s.astate ≠ .opened ∧ t.timeout = v := by
  cases exec_effect h
  case setTimeout v ho => exact .inr ⟨v, rfl, ho, rfl⟩
  all_goals simp

/-- The error record and the response after each operation (R65, R171, R174): a refusal, `ERR.CLR`, or the record kept, with no
error response. -/
theorem exec_errorRecord {i : Instr} {s t : State} (h : exec i s = .next t) :
    t = raiseCmdError .badState s ∨
    (i = .errClr ∧ t.cmderr = false ∧ t.lasterr = none ∧ t.rsp = some ⟨false, 0⟩) ∨
    (t.cmderr = s.cmderr ∧ t.lasterr = s.lasterr ∧ (t.rsp = s.rsp ∨ ∃ v, t.rsp = some ⟨false, v⟩)) := by
  cases exec_effect h
  case refuse => exact .inl rfl
  case errClr => exact .inr (.inl ⟨rfl, rfl, rfl, rfl⟩)
  all_goals exact .inr (.inr (by simp))

/-- No operation writes the parameters, and none the cycles to come. -/
theorem exec_cfg_pending {i : Instr} {s t : State} (h : exec i s = .next t) : t.cfg = s.cfg ∧ t.pending = s.pending := by
  cases exec_effect h <;> simp

/-! ## The counters and the flags of a frame -/

theorem countersAfter_of_onlyAnswers {i : Instr} (h : onlyAnswers i = true) (s : State) :
    countersAfter s i = (s.count, s.timer) := by
  cases i <;> simp_all [onlyAnswers, countersAfter]

theorem flagsAfter_of_onlyAnswers {i : Instr} (h : onlyAnswers i = true) (s : State) :
    flagsAfter s i = (s.ovf, s.vdone, s.crcok, s.short) := by
  cases i <;> simp_all [onlyAnswers, flagsAfter]

theorem countersAfter_of_preconditionFails {i : Instr} {s : State} (h : preconditionFails s i) :
    countersAfter s i = (s.count, s.timer) := by
  cases i <;> simp_all [preconditionFails, countersAfter]

theorem flagsAfter_of_preconditionFails {i : Instr} {s : State} (h : preconditionFails s i) :
    flagsAfter s i = (s.ovf, s.vdone, s.crcok, s.short) := by
  cases i <;> simp_all [preconditionFails, flagsAfter]

/-- `COUNT` after a byte is taken. -/
theorem takeByte_count (b : Byte) (s : State) :
    (takeByte b s).count = if s.count.toNat < s.cfg.bufSize then s.count + 1 else s.count := by
  unfold takeByte
  split <;> rfl

/-- `OVF` after a byte is taken. -/
theorem takeByte_ovf (b : Byte) (s : State) :
    (takeByte b s).ovf = if s.cfg.bufSize ≤ s.count.toNat then true else s.ovf := by
  obtain ⟨hl, hb⟩ | ⟨hl, hb⟩ := takeByte_cases b s
  · rw [hb, if_neg (by omega), storeByte_ovf]
  · rw [hb, if_pos hl]

/-- A frame of fewer than two bytes is not valid (R85). -/
theorem validate_of_length_lt {f : List Byte} (h : f.length < 2) : validate f = false := by
  simp [validate, h]

/-- A frame of at least two bytes is valid exactly when its trailer matches (R85). -/
theorem validate_of_le_length {f : List Byte} (h : 2 ≤ f.length) : validate f = trailerMatches (crc16 (frameBody f)) f := by
  simp [validate, h]

theorem count_lt_two_iff (s : State) : s.count < 2 ↔ s.count.toNat < 2 := BitVec.lt_def

/-! ## What an event leaves alone -/

/-- The two states differ at most in what a window's progress is: `BUF`, `COUNT`, `TIMER`, `OVF`, `ASTATE`, `REASON`. -/
def SameButWindow (s t : State) : Prop :=
  t = { s with buf := t.buf, count := t.count, timer := t.timer, astate := t.astate, reason := t.reason, ovf := t.ovf }

theorem SameButWindow.refl (s : State) : SameButWindow s s := rfl

theorem SameButWindow.trans {s t u : State} (h : SameButWindow s t) (h' : SameButWindow t u) : SameButWindow s u := by
  unfold SameButWindow at h'
  rw [h] at h'
  exact h'

theorem SameButWindow.crc {s t : State} (h : SameButWindow s t) : t.crc = s.crc := congrArg (·.crc) h
theorem SameButWindow.vcrc {s t : State} (h : SameButWindow s t) : t.vcrc = s.vcrc := congrArg (·.vcrc) h
theorem SameButWindow.expected {s t : State} (h : SameButWindow s t) : t.expected = s.expected := congrArg (·.expected) h
theorem SameButWindow.timeout {s t : State} (h : SameButWindow s t) : t.timeout = s.timeout := congrArg (·.timeout) h
theorem SameButWindow.cmderr {s t : State} (h : SameButWindow s t) : t.cmderr = s.cmderr := congrArg (·.cmderr) h
theorem SameButWindow.lasterr {s t : State} (h : SameButWindow s t) : t.lasterr = s.lasterr := congrArg (·.lasterr) h
theorem SameButWindow.rsp {s t : State} (h : SameButWindow s t) : t.rsp = s.rsp := congrArg (·.rsp) h
theorem SameButWindow.cfg {s t : State} (h : SameButWindow s t) : t.cfg = s.cfg := congrArg (·.cfg) h
theorem SameButWindow.pending {s t : State} (h : SameButWindow s t) : t.pending = s.pending := congrArg (·.pending) h

theorem accCheck_sameButWindow (s : State) : SameButWindow s (accCheck s) := by
  obtain ⟨-, -, h⟩ | ⟨-, -, -, h⟩ | ⟨-, -, -, h⟩ | ⟨-, h⟩ := accCheck_cases s <;> rw [h] <;> rfl

theorem takeByte_sameButWindow (b : Byte) (s : State) : SameButWindow s (takeByte b s) := by
  obtain ⟨-, h⟩ | ⟨-, h⟩ := takeByte_cases b s <;> rw [h] <;> rfl

theorem restartTimer_sameButWindow (s : State) : SameButWindow s (restartTimer s) := by
  rw [restartTimer_eq]
  rfl

/-- A byte changes a window's progress and nothing else (R133). -/
theorem exec_rxByte_sameButWindow {b : Byte} {s t : State} (h : exec (.rxByte b) s = .next t) : SameButWindow s t := by
  cases exec_effect h
  case answer hi => cases hi
  case refuse hi => exact hi.elim
  case byte =>
    exact ((takeByte_sameButWindow b s).trans (restartTimer_sameButWindow _)).trans (accCheck_sameButWindow _)
  case byteLost => exact .refl s

/-- A tick changes a window's progress and nothing else (R134). -/
theorem exec_tick_sameButWindow {s t : State} (h : exec .tick s = .next t) : SameButWindow s t := by
  cases exec_effect h
  case answer hi => cases hi
  case refuse hi => exact hi.elim
  case tick =>
    have hcount : SameButWindow s { s with timer := s.timer + 1 } := rfl
    exact hcount.trans (accCheck_sameButWindow _)
  case tickLost => exact .refl s

/-! ## What a cycle ran -/

/-- An operation of the opcode map, with no must-be-zero bit set, encodes to the word it stands at (R61, R63). -/
theorem encode_make_of_opcodeRow {op : Byte} {arg : Half} {row : OpRow} (hr : opcodeRow op = some row)
    (ha : reservedBitsSet row.format arg = false) : encode (row.make arg) = .cmd (cmdWord op arg) := by
  have hn : row.format = .n → arg = 0 := fun hf => by simpa [hf, reservedBitsSet] using ha
  have hb : row.format = .b → zextByte (loByte arg) = arg := fun hf =>
    zextByte_loByte (by simpa [hf, reservedBitsSet] using ha)
  have hop : op = BitVec.ofNat 8 op.toNat := by simp
  unfold opcodeRow at hr
  split at hr <;> cases hr
  all_goals
    rename_i hv
    rw [hop, hv]
    simp_all [encode]

/-- A command word that decodes is the word of its operation (R60, R64). -/
theorem encode_of_decodeCmd {w : Word24} {i : Instr} (h : decodeCmd w = .ok i) : encode i = .cmd w := by
  rw [← cmdWord_fields w, decodeCmd_cmdWord] at h
  cases hr : opcodeRow (opField w) with
  | none => simp [hr] at h
  | some row =>
    cases ha : reservedBitsSet row.format (argField w) with
    | true => simp [hr, ha] at h
    | false =>
      simp only [hr, ha, Bool.false_eq_true, if_false, Except.ok.injEq] at h
      rw [← h, encode_make_of_opcodeRow hr ha, cmdWord_fields]

/-- The command part of a cycle takes the state where the statements say. -/
theorem commandTakes_of_commandStage {cmd : Option Word24} {s t : State} (h : commandStage cmd s = .next t) :
    commandTakes cmd s t := by
  cases cmd with
  | none => exact .inl ⟨rfl, by simpa using h.symm⟩
  | some w =>
    obtain hx | ⟨e, hd, rfl⟩ := runCommand_cases h
    · exact .inr ⟨w, rfl, .inl hx⟩
    · exact .inr ⟨w, rfl, .inr ⟨e, hd, raiseCmdError_eq_refusedWith e s⟩⟩

/-- A step that goes on is a reset, or its command part and then events, which change a window's progress alone (R7, R200). -/
theorem step_cases {s t : State} (h : step s = .next t) :
    ((nextCycle s).rst = true ∧ t = resetState (dropCycle s)) ∨
    ((nextCycle s).rst = false ∧
      ∃ u, commandTakes (nextCycle s).cmd { dropCycle s with rsp := none } u ∧ SameButWindow u t) := by
  obtain hr | ⟨hr, u, v, hc, hb, ht⟩ := step_eq_next.mp h
  · exact .inl hr
  · have hrx : SameButWindow u v := by
      obtain rfl | hx := rxStage_cases hb
      · exact .refl _
      · exact exec_rxByte_sameButWindow hx
    have htick : SameButWindow v t := by
      obtain rfl | hx := tickStage_cases ht
      · exact .refl _
      · exact exec_tick_sameButWindow hx
    exact .inr ⟨hr, u, commandTakes_of_commandStage hc, hrx.trans htick⟩

/-- The error record over a cycle without `rst` (R23, R24, R174): the first clause of O18. -/
theorem step_errorRecord {s t : State} (hr : (nextCycle s).rst = false) (h : step s = .next t) :
    (∃ e, t.cmderr = true ∧ t.lasterr = some e ∧ t.rsp = some ⟨true, codeOf e⟩) ∨
    ((nextCycle s).cmd = some 0x300000 ∧ t.cmderr = false ∧ t.lasterr = none ∧ t.rsp = some ⟨false, 0⟩) ∨
    (t.cmderr = s.cmderr ∧ t.lasterr = s.lasterr ∧ ∀ d, t.rsp ≠ some ⟨true, d⟩) := by
  obtain ⟨hr', -⟩ | ⟨-, u, hc, ht⟩ := step_cases h
  · simp [hr] at hr'
  rw [ht.cmderr, ht.lasterr, ht.rsp]
  obtain ⟨-, rfl⟩ | ⟨w, hcmd, ⟨i, hd, hx⟩ | ⟨e, -, rfl⟩⟩ := hc
  · exact .inr (.inr ⟨rfl, rfl, nofun⟩)
  · have hw := encode_of_decodeCmd hd
    obtain rfl | ⟨rfl, hclear⟩ | ⟨hm, hl, hrsp | ⟨v, hrsp⟩⟩ := exec_errorRecord hx
    · exact .inl ⟨.badState, rfl, rfl, rfl⟩
    · cases hw
      exact .inr (.inl ⟨hcmd, hclear⟩)
    · exact .inr (.inr ⟨hm, hl, by simp [hrsp]⟩)
    · exact .inr (.inr ⟨hm, hl, by simp [hrsp]⟩)
  · exact .inl ⟨e, rfl, rfl, rfl⟩

/-! ## Two states that differ where an operation does not look -/

/-- Two outcomes of one kind: next states related by `R`, or the same fault or refusal. -/
inductive BothOutcomes (R : State → State → Prop) :
    Host.Outcome State Fault Refusal → Host.Outcome State Fault Refusal → Prop
  | next {s s' : State} (h : R s s') : BothOutcomes R (.next s) (.next s')
  | fault (f : Fault) : BothOutcomes R (.fault f) (.fault f)
  | refused (r : Refusal) : BothOutcomes R (.refused r) (.refused r)

theorem BothOutcomes.andThen {R : State → State → Prop} {o o' : Host.Outcome State Fault Refusal}
    {f f' : State → Host.Outcome State Fault Refusal} (h : BothOutcomes R o o')
    (hf : ∀ s s', R s s' → BothOutcomes R (f s) (f' s')) : BothOutcomes R (andThen o f) (andThen o' f') := by
  cases h with
  | next h => exact hf _ _ h
  | fault f => exact .fault f
  | refused r => exact .refused r

theorem BothOutcomes.of_next {R : State → State → Prop} {s : State} {o' : Host.Outcome State Fault Refusal}
    (h : BothOutcomes R (.next s) o') : ∃ s', o' = .next s' ∧ R s s' := by
  cases h with
  | next h => exact ⟨_, rfl, h⟩

theorem BothOutcomes.ite {R : State → State → Prop} {P : Prop} [Decidable P] {o o' q q' : Host.Outcome State Fault Refusal}
    (ho : BothOutcomes R o o') (hq : BothOutcomes R q q') :
    BothOutcomes R (if P then o else q) (if P then o' else q') := by
  split
  · exact ho
  · exact hq

/-- The operations a cycle without `rst` brings (R7). -/
def Cycle.Brings (c : Cycle) (i : Instr) : Prop :=
  (∃ w, c.cmd = some w ∧ decodeCmd w = .ok i) ∨ decodeRx c.rx = some i ∨ decodeTick c.tick = some i

/-- A relation that a reset, the start of a cycle, error entry and every operation the cycle brings keep is kept by the cycle. -/
theorem runCycle_bothOutcomes {R : State → State → Prop} {c : Cycle} {s s' : State}
    (hreset : R (resetState s) (resetState s')) (hstart : R { s with rsp := none } { s' with rsp := none })
    (hraise : ∀ e u u', R u u' → R (raiseCmdError e u) (raiseCmdError e u'))
    (hexec : ∀ i u u', c.Brings i → R u u' → BothOutcomes R (exec i u) (exec i u')) :
    BothOutcomes R (runCycle c s) (runCycle c s') := by
  have event (e : Option Instr) (he : ∀ i, e = some i → c.Brings i) (u u' : State) (h : R u u') :
      BothOutcomes R (eventStage e u) (eventStage e u') := by
    cases e with
    | none => exact .next h
    | some i => exact hexec i u u' (he i rfl) h
  have command : BothOutcomes R (commandStage c.cmd { s with rsp := none }) (commandStage c.cmd { s' with rsp := none }) := by
    cases hc : c.cmd with
    | none => exact .next hstart
    | some w =>
      cases hd : decodeCmd w with
      | error e => simpa [hd] using .next (hraise e _ _ hstart)
      | ok i => simpa [hd] using hexec i _ _ (.inl ⟨w, hc, hd⟩) hstart
  refine .ite (.next hreset) (command.andThen fun u u' h => ?_)
  exact (event _ (fun i hi => .inr (.inl hi)) u u' h).andThen (event _ fun i hi => .inr (.inr hi))

/-- Two states that agree in all but the error record and the cycles to come: in all but the error record where `record` is
true, in all but the cycles to come where it is false. -/
structure SameBut (record : Bool) (s s' : State) : Prop where
  rest : s' = { s with cmderr := s'.cmderr, lasterr := s'.lasterr, pending := s'.pending }
  queue : record = true → s'.pending = s.pending
  errors : record = false → s'.cmderr = s.cmderr ∧ s'.lasterr = s.lasterr

/-- The state with another error record and other cycles to come. -/
def overlay (c : Bool) (l : Option CmdError) (p : List Cycle) (s : State) : State :=
  { s with cmderr := c, lasterr := l, pending := p }

section
variable (c : Bool) (l : Option CmdError) (p : List Cycle) (s : State)

theorem accCheck_overlay : accCheck (overlay c l p s) = overlay c l p (accCheck s) := by
  unfold accCheck overlay
  split_ifs <;> rfl

theorem takeByte_overlay (b : Byte) : takeByte b (overlay c l p s) = overlay c l p (takeByte b s) := by
  unfold takeByte overlay
  split_ifs <;> rfl

theorem restartTimer_overlay : restartTimer (overlay c l p s) = overlay c l p (restartTimer s) := by
  simp only [restartTimer_eq, overlay]

end

/-- An operation sees neither the cycles to come nor, but for the status read, the error record: it ends alike with others. -/
theorem exec_overlay {record : Bool} {i : Instr} {s : State} {c : Bool} {l : Option CmdError} {p : List Cycle}
    (hi : record = true → i ≠ .accRdstat) (hq : record = true → p = s.pending)
    (he : record = false → c = s.cmderr ∧ l = s.lasterr) :
    BothOutcomes (SameBut record) (exec i s) (exec i (overlay c l p s)) := by
  have kept (t : State) (hc : t.cmderr = s.cmderr) (hl : t.lasterr = s.lasterr) (hp : t.pending = s.pending) :
      SameBut record t (overlay c l p t) :=
    ⟨rfl, fun h => (hq h).trans hp.symm, fun h => by rw [hc, hl]; exact he h⟩
  have refusal : BothOutcomes (SameBut record) (.next (raiseCmdError .badState s))
      (.next (raiseCmdError .badState (overlay c l p s))) := .next ⟨rfl, hq, fun _ => ⟨rfl, rfl⟩⟩
  cases i
  case nop | crcInit | crcUpd | crcRdlo | crcRdhi | crcRd | valRdcrc | accRdcnt | accRdexp | accRdtmo | accRdtmr =>
    exact .next (kept _ rfl rfl rfl)
  case errClr => exact .next ⟨rfl, hq, fun _ => ⟨rfl, rfl⟩⟩
  case accRdstat =>
    cases record with
    | true => exact absurd rfl (hi rfl)
    | false =>
      obtain ⟨rfl, rfl⟩ := he rfl
      exact .next (kept _ rfl rfl rfl)
  case accRdbuf h =>
    have hread : bufRead (overlay c l p s) h = bufRead s h := rfl
    simp only [exec, execAccRdbuf, hread]
    cases bufRead s h with
    | error f => exact .fault f
    | ok b => exact .next (kept _ rfl rfl rfl)
  case valRun =>
    have hread : memReadSpan (overlay c l p s) 0 (overlay c l p s).count.toNat = memReadSpan s 0 s.count.toNat :=
      memReadSpan_congr (s := s) (t := overlay c l p s) rfl rfl 0 s.count.toNat
    refine .ite (.ite (.next (kept _ rfl rfl rfl)) ?_) refusal
    rw [hread]
    cases memReadSpan s 0 s.count.toNat with
    | error f => exact .fault f
    | ok frame => exact .next (kept _ rfl rfl rfl)
  case accSetexp | accSettmo | accClr => exact .ite refusal (.next (kept _ rfl rfl rfl))
  case accStart =>
    refine .ite refusal (.next ?_)
    change SameBut record _ (respond 0 (accCheck (overlay c l p { clearWindow s with astate := .opened })))
    rw [accCheck_overlay]
    exact kept (respond 0 _) (by simp) (by simp) (by simp)
  case accAbort =>
    by_cases ho : s.astate = .opened
    · rw [exec_accAbort_of_open ho, exec_accAbort_of_open (s := overlay c l p s) ho]
      exact .next (kept (respond 0 _) rfl rfl rfl)
    · rw [exec_accAbort_of_not_open ho, exec_accAbort_of_not_open (s := overlay c l p s) ho]
      exact .next (kept (respond 0 _) rfl rfl rfl)
  case rxByte b =>
    refine .ite (.next ?_) (.next (kept s rfl rfl rfl))
    rw [takeByte_overlay, restartTimer_overlay, accCheck_overlay]
    exact kept _ (by simp) (by simp) (by simp)
  case tick =>
    refine .ite (.next ?_) (.next (kept s rfl rfl rfl))
    change SameBut record _ (accCheck (overlay c l p { s with timer := s.timer + 1 }))
    rw [accCheck_overlay]
    exact kept _ (by simp) (by simp) (by simp)

theorem exec_sameBut {record : Bool} {i : Instr} {s s' : State} (hi : record = true → i ≠ .accRdstat) (h : SameBut record s s') :
    BothOutcomes (SameBut record) (exec i s) (exec i s') := by
  rw [h.rest]
  exact exec_overlay hi h.queue h.errors

theorem runCycle_sameBut {record : Bool} {c : Cycle} {s s' : State} (hc : record = true → c.cmd ≠ some 0x270000)
    (h : SameBut record s s') : BothOutcomes (SameBut record) (runCycle c s) (runCycle c s') := by
  have brings {i : Instr} (hi : c.Brings i) (hr : record = true) : i ≠ .accRdstat := by
    rintro rfl
    obtain ⟨w, hw, hd⟩ | hrx | htick := hi
    · cases encode_of_decodeCmd hd
      exact hc hr hw
    · cases decodeRx_eq_some hrx
    · cases decodeTick_eq_some htick
  refine runCycle_bothOutcomes ⟨?_, h.queue, fun _ => ⟨rfl, rfl⟩⟩ ⟨?_, h.queue, h.errors⟩
    (fun e u u' h => ⟨?_, h.queue, fun _ => ⟨rfl, rfl⟩⟩) fun i u u' hi h => exec_sameBut (brings hi) h
  · rw [h.rest]
    rfl
  · rw [h.rest]
  · rw [h.rest]
    rfl

theorem sameBut_true_iff {s s' : State} : SameBut true s s' ↔ SameButErrorRecord s s' := by
  constructor
  · intro h
    exact h.rest.trans (by rw [h.queue rfl])
  · intro h
    have hqueue : s'.pending = s.pending := congrArg (·.pending) h
    exact ⟨h.trans (by rw [hqueue]), fun _ => hqueue, nofun⟩

/-- No cycle writes the parameters, and each uses up the one cycle it presents (R5, R7). -/
theorem step_cfg_pending {s t : State} (h : step s = .next t) : t.cfg = s.cfg ∧ t.pending = s.pending.tail := by
  obtain ⟨-, rfl⟩ | ⟨-, u, hc, ht⟩ := step_cases h
  · exact ⟨rfl, rfl⟩
  rw [ht.cfg, ht.pending]
  obtain ⟨-, rfl⟩ | ⟨w, -, ⟨i, -, hx⟩ | ⟨e, -, rfl⟩⟩ := hc
  · exact ⟨rfl, rfl⟩
  · exact exec_cfg_pending hx
  · exact ⟨rfl, rfl⟩

/-- A cycle does not see the response of the cycle before it (R65). -/
theorem runCycle_rsp (c : Cycle) (r : Option Response) (s : State) : runCycle c { s with rsp := r } = runCycle c s := rfl

/-! ## The invariants -/

/-- Settles O52, clause by clause: each is a fact about one state. -/
theorem resetMeetsTheInvariants : Obligations.ResetMeetsTheInvariants := by
  unfold Obligations.ResetMeetsTheInvariants
  constructor <;> decide

/-- A reset from any state whose buffer and parameters meet the invariants meets them (R200, R201). -/
theorem resetState_inv {s : State} (hi : s.Inv) : (resetState s).Inv :=
  { resetMeetsTheInvariants with
    cfg_wf := hi.cfg_wf
    buf_wf := hi.buf_wf
    buf_below := hi.buf_below
    count_le := Nat.zero_le _
    crcok_valid := nofun
    ovf_full := nofun }

/-- An open window has no reason yet (R28 (e)). -/
theorem State.Inv.open_reason {s : State} (hi : s.Inv) (ho : s.astate = .opened) : s.reason = .none := by
  by_contra hr
  simp [hi.done_iff_reason.mpr hr] at ho

/-- `CRCOK` and `SHORT` are 0 in an open window (R28 (g), (h)). -/
theorem State.Inv.open_flags {s : State} (hi : s.Inv) (ho : s.astate = .opened) : s.crcok = false ∧ s.short = false := by
  have hv := hi.open_unvalidated ho
  constructor
  · by_contra h
    obtain ⟨hdone, -⟩ := hi.crcok_valid (by simpa using h)
    simp [hdone] at hv
  · by_contra h
    obtain ⟨hdone, -⟩ := hi.short_short (by simpa using h)
    simp [hdone] at hv

/-- While the buffer has room, no byte has been lost (R28 (j)). -/
theorem State.Inv.ovf_of_room {s : State} (hi : s.Inv) (hl : s.count.toNat < s.cfg.bufSize) : s.ovf = false := by
  by_contra h
  have := hi.ovf_full (by simpa using h)
  omega

/-- An open window's progress keeps the invariants when the buffer keeps its form, the counter its bound, and the window
is still open below both limits or has been closed for a reason. -/
theorem inv_of_window {s t : State} (hi : s.Inv) (ho : s.astate = .opened) (ht : SameButWindow s t)
    (hwf : Memory.wf t.buf = true) (hbelow : Memory.below s.cfg.bufSize t.buf = true)
    (hcount : t.count.toNat ≤ s.cfg.bufSize) (hovf : t.ovf = true → t.count.toNat = s.cfg.bufSize)
    (hlast : (t.astate = .opened ∧ t.reason = .none ∧ t.count < s.expected ∧ t.timer < s.timeout) ∨
      (t.astate = .done ∧ t.reason ≠ .none)) : t.Inv := by
  obtain ⟨hok, hshort⟩ := hi.open_flags ho
  have hv := hi.open_unvalidated ho
  have hmid : t.astate ≠ .idle := by
    obtain ⟨h, -⟩ | ⟨h, -⟩ := hlast <;> simp [h]
  have hopen (h : t.astate = .opened) : t.count < s.expected ∧ t.timer < s.timeout := by
    obtain ⟨-, -, h⟩ | ⟨h', -⟩ := hlast
    · exact h
    · simp [h] at h'
  rw [ht]
  exact
    { cfg_wf := hi.cfg_wf
      buf_wf := hwf
      buf_below := hbelow
      count_le := hcount
      open_quota := fun h => (hopen h).1
      open_timer := fun h => (hopen h).2
      open_unvalidated := fun _ => hv
      idle_counters := fun h => absurd h hmid
      idle_flags := fun h => absurd h hmid
      done_iff_reason := by obtain ⟨h, h', -⟩ | ⟨h, h'⟩ := hlast <;> simp [h, h']
      crcok_valid := fun h => by simp [hok] at h
      short_short := fun h => by simp [hshort] at h
      cmderr_iff := hi.cmderr_iff
      ovf_full := hovf }

/-- A window cleared meets the invariants when it is left idle, closed at once for a reason, or open with neither limit 0
(R124, R126). -/
theorem inv_of_cleared {s : State} (hi : s.Inv) {a : AState} {r : Reason} (hr : a = .done ↔ r ≠ .none)
    (ho : a = .opened → 0 < s.expected ∧ 0 < s.timeout) : { clearWindow s with astate := a, reason := r }.Inv :=
  { hi with
    count_le := Nat.zero_le _
    open_quota := fun h => (ho h).1
    open_timer := fun h => (ho h).2
    open_unvalidated := fun _ => rfl
    idle_counters := fun _ => ⟨rfl, rfl⟩
    idle_flags := fun _ => ⟨rfl, rfl, rfl, rfl⟩
    done_iff_reason := hr
    crcok_valid := nofun
    short_short := nofun
    ovf_full := nofun }

/-- A response changes nothing the invariants speak of. -/
theorem respond_inv {s : State} (hi : s.Inv) (v : Half) : (respond v s).Inv := { hi with }

theorem raiseCmdError_inv {s : State} (hi : s.Inv) (e : CmdError) : (raiseCmdError e s).Inv :=
  { hi with cmderr_iff := by simp }

/-- A byte in an open window keeps the invariants (R133). -/
theorem exec_rxByte_inv {s t : State} (hi : s.Inv) (ho : s.astate = .opened) {b : Byte} (h : exec (.rxByte b) s = .next t) :
    t.Inv := by
  have hsame := exec_rxByte_sameButWindow h
  have hn := half_succ_toNat (hi.open_quota ho)
  have htimer := BitVec.not_le.mp (restarted_lt (hi.open_timer ho))
  have hreason := hi.open_reason ho
  have stored (hl : s.count.toNat < s.cfg.bufSize) :
      Memory.wf (Memory.write s.buf s.count.toNat b) = true ∧
      Memory.below s.cfg.bufSize (Memory.write s.buf s.count.toNat b) = true ∧
      (s.count + 1).toNat ≤ s.cfg.bufSize ∧ (s.ovf = true → (s.count + 1).toNat = s.cfg.bufSize) :=
    ⟨Memory.wf_write hi.buf_wf _ b, Memory.below_write hi.buf_below hl b, by omega,
      fun h => by simp [hi.ovf_of_room hl] at h⟩
  obtain ⟨hl, -, hx⟩ | ⟨hl, hq, hx⟩ | ⟨hfull, hx⟩ := exec_rxByte_cases hi ho b <;> rw [hx] at h <;> cases h
  · obtain ⟨hwf, hbelow, hcount, hovf⟩ := stored hl
    exact inv_of_window hi ho hsame hwf hbelow hcount hovf (.inr ⟨rfl, nofun⟩)
  · obtain ⟨hwf, hbelow, hcount, hovf⟩ := stored hl
    have hquota : s.count + 1 < s.expected := by rw [BitVec.lt_def, hn]; exact hq
    exact inv_of_window hi ho hsame hwf hbelow hcount hovf (.inl ⟨ho, hreason, hquota, htimer⟩)
  · exact inv_of_window hi ho hsame hi.buf_wf hi.buf_below hi.count_le (fun _ => hfull)
      (.inl ⟨ho, hreason, hi.open_quota ho, htimer⟩)

/-- A tick in an open window keeps the invariants (R134). -/
theorem exec_tick_inv {s t : State} (hi : s.Inv) (ho : s.astate = .opened) (h : exec .tick s = .next t) : t.Inv := by
  have hsame := exec_tick_sameButWindow h
  have hn := half_succ_toNat (hi.open_timer ho)
  obtain ⟨-, hx⟩ | ⟨ht, hx⟩ := exec_tick_cases hi ho <;> rw [hx] at h <;> cases h
  · exact inv_of_window hi ho hsame hi.buf_wf hi.buf_below hi.count_le hi.ovf_full (.inr ⟨rfl, nofun⟩)
  · have htimer : s.timer + 1 < s.timeout := by rw [BitVec.lt_def, hn]; exact ht
    exact inv_of_window hi ho hsame hi.buf_wf hi.buf_below hi.count_le hi.ovf_full
      (.inl ⟨ho, hi.open_reason ho, hi.open_quota ho, htimer⟩)

/-- `ACC.START` outside a window keeps the invariants (R124): the window it opens is tested at once. -/
theorem started_inv {s : State} (hi : s.Inv) : (accCheck { clearWindow s with astate := .opened }).Inv := by
  obtain ⟨-, -, h⟩ | ⟨-, -, -, h⟩ | ⟨-, hq, ht, h⟩ | ⟨h, -⟩ := accCheck_cases { clearWindow s with astate := .opened }
  · rw [h]
    exact inv_of_cleared hi (a := .done) (r := .quota) (by simp) nofun
  · rw [h]
    exact inv_of_cleared hi (a := .done) (r := .tmo) (by simp) nofun
  · rw [h]
    exact inv_of_cleared hi (a := .opened) (r := .none) (by simp) fun _ => ⟨hq, ht⟩
  · exact absurd rfl h

/-- A validation in `DONE` keeps the invariants: its flags say what R28 (g) and (h) say. -/
theorem validateShort_inv {s : State} (hi : s.Inv) (hd : s.astate = .done) (hc : s.count < 2) : (validateShort s).Inv :=
  { hi with
    open_unvalidated := fun h => by simp [hd] at h
    idle_flags := fun h => by simp [hd] at h
    crcok_valid := nofun
    short_short := fun _ => ⟨rfl, (count_lt_two_iff s).mp hc⟩ }

theorem validateFrame_inv {s : State} (hi : s.Inv) (hd : s.astate = .done) (hc : 2 ≤ s.count) :
    (validateFrame (candidateFrame s) s).Inv :=
  { hi with
    open_unvalidated := fun h => by simp [hd] at h
    idle_flags := fun h => by simp [hd] at h
    crcok_valid := fun h => by
      have hn : 2 ≤ s.count.toNat := BitVec.le_def.mp hc
      have hvalid := validate_of_le_length (f := candidateFrame s) (by simpa using hn)
      obtain ⟨hm, hovf⟩ : trailerMatches (crc16 (frameBody (candidateFrame s))) (candidateFrame s) = true ∧ s.ovf = false := by
        simpa [crcOkFlag] using h
      exact ⟨rfl, rfl, hovf, hn, hvalid.trans hm⟩
    short_short := nofun }

/-- Every operation keeps the invariants, by its effects. -/
theorem exec_inv {i : Instr} {s t : State} (hi : s.Inv) (h : exec i s = .next t) : t.Inv := by
  cases exec_effect h
  case answer => exact respond_inv hi _
  case refuse => exact raiseCmdError_inv hi _
  case crcInit | crcUpd => exact { hi with }
  case errClr => exact { hi with cmderr_iff := ⟨fun _ => rfl, fun _ => rfl⟩ }
  case validateShort hd hc => exact respond_inv (validateShort_inv hi hd hc) 0
  case validateFrame hd hc _ => exact respond_inv (validateFrame_inv hi hd hc) _
  case setExpected ho | setTimeout ho =>
    exact { hi with open_quota := fun h => absurd h ho, open_timer := fun h => absurd h ho }
  case start => exact respond_inv (started_inv hi) 0
  case clear => exact respond_inv (inv_of_cleared hi (by simp) (by simp)) 0
  case abort ho =>
    have hsame : SameButWindow s (closeWindow .abort s) := rfl
    exact respond_inv (inv_of_window hi ho hsame hi.buf_wf hi.buf_below hi.count_le hi.ovf_full (.inr ⟨rfl, nofun⟩)) 0
  case abortNothing => exact respond_inv hi 0
  case byte ho => exact exec_rxByte_inv hi ho h
  case tick ho => exact exec_tick_inv hi ho h
  case byteLost | tickLost => exact hi

/-- The command part of a cycle keeps the invariants. -/
theorem commandTakes_inv {cmd : Option Word24} {s t : State} (hi : s.Inv) (h : commandTakes cmd s t) : t.Inv := by
  obtain ⟨-, rfl⟩ | ⟨w, -, ⟨i, -, hx⟩ | ⟨e, -, rfl⟩⟩ := h
  · exact hi
  · exact exec_inv hi hx
  · exact raiseCmdError_eq_refusedWith e s ▸ raiseCmdError_inv hi e

theorem eventStage_inv {e : Option Instr} {s t : State} (hi : s.Inv) (h : eventStage e s = .next t) : t.Inv := by
  cases e with
  | none => cases h; exact hi
  | some i => exact exec_inv hi h

/-- The start of a cycle keeps the invariants: they speak neither of the queue nor of the response. -/
theorem startCycle_inv {s : State} (hi : s.Inv) : { dropCycle s with rsp := none }.Inv := { hi with }

/-- Every part of a cycle goes on from a state that meets the invariants. -/
theorem commandStage_goes_on {s : State} (hi : s.Inv) (cmd : Option Word24) : ∃ t, commandStage cmd s = .next t := by
  cases cmd with
  | none => exact ⟨s, rfl⟩
  | some w =>
    cases hd : decodeCmd w with
    | error e => exact ⟨_, runCommand_of_error hd s⟩
    | ok i =>
      obtain ⟨t, ht⟩ := exec_goes_on i hi.count_le
      exact ⟨t, (runCommand_of_ok hd s).trans ht⟩

theorem eventStage_goes_on {s : State} (hi : s.Inv) (e : Option Instr) : ∃ t, eventStage e s = .next t := by
  cases e with
  | none => exact ⟨s, rfl⟩
  | some i => exact exec_goes_on i hi.count_le

/-! ## The status word and the reset state -/

/-- Bit `i` of a field placed at `lo`: the field's bit `i - lo`, where there is one. -/
theorem getLsbD_fieldAt (lo : Nat) {n : Nat} (v : BitVec n) (i : Nat) :
    (fieldAt lo v).getLsbD i = (decide (i < 16) && (!decide (i < lo) && v.getLsbD (i - lo))) := by
  simp only [fieldAt, BitVec.getLsbD_shiftLeft, BitVec.getLsbD_setWidth]
  by_cases h : i < 16
  · simp [h, show i - lo < 16 by omega]
  · simp [h]

/-- Bit `i` of the status word: the bit of whichever field stands there (R26). -/
theorem getLsbD_statusWord (s : State) (i : Nat) :
    (statusWord s).getLsbD i =
      ((fieldAt 0 (astateCode s.astate)).getLsbD i || (fieldAt 2 (reasonCode s.reason)).getLsbD i ||
      (fieldAt 4 (BitVec.ofBool s.ovf)).getLsbD i || (fieldAt 5 (BitVec.ofBool s.vdone)).getLsbD i ||
      (fieldAt 6 (BitVec.ofBool s.crcok)).getLsbD i || (fieldAt 7 (BitVec.ofBool s.short)).getLsbD i ||
      (fieldAt 8 (BitVec.ofBool s.cmderr)).getLsbD i || (fieldAt 9 (lasterrCode s.lasterr)).getLsbD i) := by
  simp only [statusWord, BitVec.getLsbD_or]

/-- The fields of more than one bit, and the four bits above them, read off the status word (R26). -/
theorem extractLsb'_statusWord (s : State) :
    (statusWord s).extractLsb' 0 2 = astateCode s.astate ∧ (statusWord s).extractLsb' 2 2 = reasonCode s.reason ∧
    (statusWord s).extractLsb' 9 3 = lasterrCode s.lasterr ∧ (statusWord s).extractLsb' 12 4 = 0 := by
  refine ⟨?_, ?_, ?_, ?_⟩
  all_goals
    refine BitVec.eq_of_getLsbD_eq fun i hi => ?_
    simp only [BitVec.getLsbD_extractLsb', getLsbD_statusWord, getLsbD_fieldAt]
    interval_cases i <;> simp

/-- The one-bit fields read off the status word (R26). -/
theorem getLsbD_statusWord_flags (s : State) :
    (statusWord s).getLsbD 4 = s.ovf ∧ (statusWord s).getLsbD 5 = s.vdone ∧ (statusWord s).getLsbD 6 = s.crcok ∧
    (statusWord s).getLsbD 7 = s.short ∧ (statusWord s).getLsbD 8 = s.cmderr := by
  simp only [getLsbD_statusWord, getLsbD_fieldAt]
  simp

/-- A command of format `N` with a nonzero operand is refused (R61, R62). -/
theorem operandReserved_of_format {op : Byte} (h : (opcodeRow op).map OpRow.format = some .n) : operandReserved op := by
  intro s arg ha
  have hd : decodeCmd (cmdWord op arg) = .error .reservedOperand := by
    rw [decodeCmd_error_iff, h]
    exact ⟨rfl, by simpa [reservedBitsSet] using ha⟩
  rw [runCommand_of_error hd, raiseCmdError_eq_refusedWith]

/-! ## The statements -/

/-- Settles O53: a reset meets the invariants anew, and each part of any other cycle keeps them (`exec_inv`). -/
theorem stepKeepsTheInvariants : Obligations.StepKeepsTheInvariants := by
  intro s t hi h
  obtain ⟨-, rfl⟩ | ⟨-, u, v, hc, hb, ht⟩ := step_eq_next.mp h
  · exact resetState_inv (s := dropCycle s) { hi with }
  · have hu : u.Inv := commandTakes_inv (startCycle_inv hi) (commandTakes_of_commandStage hc)
    exact eventStage_inv (eventStage_inv hu hb) ht

/-- Settles O54: each part of the cycle goes on from where the one before it ended, in a state that meets the invariants. -/
theorem everyStepGoesOn : Obligations.EveryStepGoesOn := by
  intro s hi
  cases hr : (nextCycle s).rst with
  | true => exact ⟨_, step_eq_next.mpr (.inl ⟨hr, rfl⟩)⟩
  | false =>
    obtain ⟨u, hc⟩ := commandStage_goes_on (startCycle_inv hi) (nextCycle s).cmd
    have hu : u.Inv := commandTakes_inv (startCycle_inv hi) (commandTakes_of_commandStage hc)
    obtain ⟨v, hb⟩ := eventStage_goes_on hu (decodeRx (nextCycle s).rx)
    obtain ⟨t, ht⟩ := eventStage_goes_on (eventStage_inv hu hb) (decodeTick (nextCycle s).tick)
    exact ⟨t, step_eq_next.mpr (.inr ⟨hr, u, v, hc, hb, ht⟩)⟩

/-- Settles O8: the two states differ in the cycles to come alone, which no part of a cycle sees and the step only uses up. -/
theorem stepIsTheBlocksStep : Obligations.StepIsTheBlocksStep := by
  intro s
  have hboth : BothOutcomes (SameBut false) (step s)
      (runCycle (nextCycle s) { s.toArch with cfg := s.cfg, rsp := none, pending := [] }) := by
    rw [step, ← runCycle_rsp _ none]
    exact runCycle_sameBut nofun ⟨rfl, nofun, fun _ => ⟨rfl, rfl⟩⟩
  have hports (t : State) (h : step s = .next t) := step_cfg_pending h
  unfold blockStep
  revert hboth hports
  generalize step s = o, runCycle (nextCycle s) _ = o'
  intro hboth hports
  cases hboth with
  | fault f => rfl
  | refused r => rfl
  | @next t t' h =>
    obtain ⟨hcfg, hpending⟩ := hports t rfl
    obtain ⟨hm, hl⟩ := h.errors rfl
    have ht : t' = { t with pending := t'.pending } := h.rest.trans (by rw [hm, hl])
    simp only
    rw [ht, ← hcfg, ← hpending]

/-- Settles O18: what a cycle writes to the record, and that a cycle without the status read does not see the record. -/
theorem errorRecordChangesOnlyByRefusalAndErrClr : Obligations.ErrorRecordChangesOnlyByRefusalAndErrClr := by
  refine ⟨fun s t => step_errorRecord, fun s s' t h hc hstep => ?_⟩
  have hsame := sameBut_true_iff.mpr h
  have hqueue := hsame.queue rfl
  have hboth : BothOutcomes (SameBut true) (step s) (step s') := by
    rw [step, step, show nextCycle s' = nextCycle s by rw [nextCycle, hqueue, nextCycle]]
    refine runCycle_sameBut (fun _ => hc) ⟨?_, fun _ => congrArg List.tail hqueue, nofun⟩
    rw [hsame.rest]
    rfl
  rw [hstep] at hboth
  obtain ⟨t', ht', hR⟩ := hboth.of_next
  exact ⟨t', ht', sameBut_true_iff.mp hR⟩

/-- Settles O43, by the cases of a byte and of a tick in a window that meets the invariants. -/
theorem eventsCloseForTheirOwnReason : Obligations.EventsCloseForTheirOwnReason := by
  refine ⟨fun b s t hi ho h => ?_, fun s t hi ho h => ?_, fun s hi ho hovf => ?_⟩
  · have hquota := BitVec.lt_def.mp (hi.open_quota ho)
    have hn := half_succ_toNat (hi.open_quota ho)
    obtain ⟨hl, hq, hx⟩ | ⟨-, -, hx⟩ | ⟨hfull, hx⟩ := exec_rxByte_cases hi ho b <;> rw [hx] at h <;> cases h
    · have hmet : s.count + 1 = s.expected := BitVec.eq_of_toNat_eq (by omega)
      exact ⟨fun _ => hn, fun _ => ⟨rfl, hmet, by show s.expected.toNat ≤ s.cfg.bufSize; omega, hi.ovf_of_room hl⟩⟩
    · exact ⟨fun _ => hn, fun hd => by simp [ho] at hd⟩
    · exact ⟨fun hl => by omega, fun hd => by simp [ho] at hd⟩
  · have hn := half_succ_toNat (hi.open_timer ho)
    obtain ⟨-, hx⟩ | ⟨-, hx⟩ := exec_tick_cases hi ho <;> rw [hx] at h <;> cases h
    · exact ⟨hn, fun _ => rfl⟩
    · exact ⟨hn, fun hd => by simp [ho] at hd⟩
  · have hquota := BitVec.lt_def.mp (hi.open_quota ho)
    have hfull := hi.ovf_full hovf
    omega

/-- Settles O44, by what the command of the cycle did; the events write neither register. -/
theorem crcRegistersAreWrittenOnlyByTheirCommands : Obligations.CrcRegistersAreWrittenOnlyByTheirCommands := by
  intro s t h
  obtain ⟨hr, -⟩ | ⟨-, u, hc, ht⟩ := step_cases h
  · exact .inl hr
  rw [ht.crc, ht.vcrc]
  obtain ⟨-, rfl⟩ | ⟨w, hcmd, ⟨i, hd, hx⟩ | ⟨e, -, rfl⟩⟩ := hc
  · exact .inr ⟨.inl rfl, .inl rfl⟩
  · have hw := encode_of_decodeCmd hd
    refine .inr ⟨(exec_crc hx).imp_right (Or.imp ?_ ?_), (exec_vcrc hx).imp_right ?_⟩
    · rintro ⟨rfl, hv⟩
      cases hw
      exact ⟨hcmd, hv⟩
    · rintro ⟨b, rfl, hv⟩
      cases hw
      exact ⟨b, hcmd, hv⟩
    · rintro ⟨rfl, hdone⟩
      cases hw
      exact ⟨hcmd, hdone⟩
  · exact .inr ⟨.inl rfl, .inl rfl⟩

/-- Settles O45, by what the command of the cycle did; the events write neither register. -/
theorem configurationIsFrozenInAWindow : Obligations.ConfigurationIsFrozenInAWindow := by
  intro s t h
  obtain ⟨hr, -⟩ | ⟨-, u, hc, ht⟩ := step_cases h
  · exact .inl hr
  rw [ht.expected, ht.timeout]
  obtain ⟨-, rfl⟩ | ⟨w, hcmd, ⟨i, hd, hx⟩ | ⟨e, -, rfl⟩⟩ := hc
  · exact .inr ⟨.inl rfl, .inl rfl⟩
  · have hw := encode_of_decodeCmd hd
    refine .inr ⟨(exec_expected hx).imp_right ?_, (exec_timeout hx).imp_right ?_⟩
    · rintro ⟨v, rfl, ho, hv⟩
      cases hw
      exact ⟨v, hcmd, ho, hv⟩
    · rintro ⟨v, rfl, ho, hv⟩
      cases hw
      exact ⟨v, hcmd, ho, hv⟩
  · exact .inr ⟨.inl rfl, .inl rfl⟩

/-- Settles O46, by the effect of the operation. -/
theorem countersMoveOnlyAsStated : Obligations.CountersMoveOnlyAsStated := by
  intro i s t h
  cases exec_effect h
  case answer v hi => exact (countersAfter_of_onlyAnswers hi s).symm
  case refuse hi => exact (countersAfter_of_preconditionFails hi).symm
  case byte b ho => simp [countersAfter, ho, takeByte_count]
  all_goals simp_all [countersAfter]

/-- Settles O47, by the effect of the operation; a validation is `validate` on either side of two bytes. -/
theorem frameFlagsChangeOnlyAsStated : Obligations.FrameFlagsChangeOnlyAsStated := by
  intro i s t h
  cases exec_effect h
  case answer v hi => exact (flagsAfter_of_onlyAnswers hi s).symm
  case refuse hi => exact (flagsAfter_of_preconditionFails hi).symm
  case validateShort hd hc =>
    have hn := (count_lt_two_iff s).mp hc
    simp [flagsAfter, hd, hn, validate_of_length_lt]
  case validateFrame hd hc v =>
    have hn : 2 ≤ s.count.toNat := BitVec.le_def.mp hc
    simp [flagsAfter, hd, Nat.not_lt.mpr hn, hn, validate_of_le_length, crcOkFlag]
  case byte b ho => simp [flagsAfter, ho, takeByte_ovf]
  all_goals simp_all [flagsAfter]

/-- Settles O48: only a byte that finds room writes, and it writes the cell at `COUNT`. -/
theorem bufferIsWrittenOnlyAtCount : Obligations.BufferIsWrittenOnlyAtCount := by
  intro i s t h
  cases exec_effect h
  case byte b ho =>
    obtain ⟨hl, hb⟩ | ⟨-, hb⟩ := takeByte_cases b s
    · refine .inr ⟨b, rfl, ho, hl, by simp [hb], by simp [hb], fun a ha => ?_⟩
      simpa [hb] using Memory.read_write_other s.buf b ha
    · exact .inl fun a => by simp [hb]
  all_goals exact .inl fun a => by simp

/-- Settles O50: the effects that would move the frame need an open window. -/
theorem closedFrameIsFrozen : Obligations.ClosedFrameIsFrozen := by
  intro i s t hd hs hc h
  cases exec_effect h
  case start => exact absurd rfl hs
  case clear => exact absurd rfl hc
  case abort ho | byte ho | tick ho => simp [hd] at ho
  all_goals simp

/-- Settles O31, bit by bit of the fields `getLsbD_statusWord` lists. -/
theorem statusWordHoldsEveryField : Obligations.StatusWordHoldsEveryField := by
  refine ⟨by decide, operandReserved_of_format rfl, fun _ => rfl, fun s => ?_, fun s ha hr ho hv hc hs hm hl => ?_⟩
  · obtain ⟨hastate, hreason, hlasterr, htop⟩ := extractLsb'_statusWord s
    obtain ⟨hovf, hvdone, hcrcok, hshort, hcmderr⟩ := getLsbD_statusWord_flags s
    refine ⟨?_, ?_, hovf, hvdone, hcrcok, hshort, hcmderr, ?_, by rw [htop]; rfl⟩
    · rw [hastate]
      cases s.astate <;> rfl
    · rw [hreason]
      cases s.reason <;> rfl
    · rw [hlasterr]
      rcases s.lasterr with - | ⟨- | - | -⟩ <;> rfl
  · rw [statusWord, ha, hr, ho, hv, hc, hs, hm, hl]
    rfl

/-- Settles O11; with `COUNT` = 0 every buffer read is above the gate (R42). -/
theorem resetStateIsTheSpecs : Obligations.ResetStateIsTheSpecs := by
  have hread (i : Half) : exec (.accRdbuf i) State.reset = .next (answered 0 State.reset) := by
    have hzero : bufRead State.reset i = .ok 0x00 := bufRead_of_le (BitVec.le_def.mpr (Nat.zero_le _))
    simp only [exec, execAccRdbuf, hzero]
    rfl
  exact ⟨rfl, rfl, rfl, rfl, rfl, rfl, rfl, rfl, rfl, rfl, rfl, rfl, rfl, rfl, rfl, rfl, rfl, hread⟩

end Sys2Proof.Machine
end

section
/-! PROOFS. The family 20_memory.md: what a byte does to the buffer (R41), and that what lies at and above `COUNT` cannot be
observed (R42). First the parts of a byte in an open window; then two states whose buffers differ; last the statements. -/

namespace Sys2Proof.Machine

open Sys2Proof.Spec

/-! ## A byte in an open window -/

/-- `ASTATE` after the close test of an open window (R121). -/
theorem accCheck_astate_of_open {s : State} (h : s.astate = .opened) :
    (accCheck s).astate = if s.expected ≤ s.count ∨ s.timeout ≤ s.timer then .done else .opened := by
  rw [accCheck_of_open h]

/-- `REASON` after the close test of an open window (R121). -/
theorem accCheck_reason_of_open {s : State} (h : s.astate = .opened) :
    (accCheck s).reason = if s.expected ≤ s.count then .quota else if s.timeout ≤ s.timer then .tmo else s.reason := by
  rw [accCheck_of_open h]

/-- A byte that finds the buffer full is dropped with `OVF` set (R133). -/
theorem takeByte_of_full {s : State} (h : s.cfg.bufSize ≤ s.count.toNat) (b : Byte) : takeByte b s = { s with ovf := true } :=
  if_neg (Nat.not_lt.mpr h)

/-! ## Two states whose buffers differ -/

/-- The state with another buffer. -/
def withBuf (m : Memory) (s : State) : State := { s with buf := m }

/-- The gated read does not tell buffers that agree below `COUNT` apart (R42). -/
theorem bufRead_withBuf {m : Memory} {s : State} (h : SameBelowCount s (withBuf m s)) (i : Half) :
    bufRead (withBuf m s) i = bufRead s i := by
  by_cases hi : i < s.count
  · have hread : Memory.read m i.toNat = Memory.read s.buf i.toNat := h.2 _ (BitVec.lt_def.mp hi)
    simp only [bufRead, memRead, withBuf, hread]
  · have hle := BitVec.not_lt.mp hi
    rw [bufRead_of_le hle, bufRead_of_le (s := withBuf m s) hle]

/-- A span that ends at or below `COUNT` does not tell them apart either (R110). -/
theorem memReadSpan_withBuf {m : Memory} {s : State} (h : SameBelowCount s (withBuf m s)) {start len : Nat}
    (hle : start + len ≤ s.count.toNat) : memReadSpan (withBuf m s) start len = memReadSpan s start len := by
  induction len generalizing start with
  | zero => rfl
  | succ len ih =>
    have hread : Memory.read m start = Memory.read s.buf start := h.2 _ (by omega)
    have hmem : memRead (withBuf m s) start = memRead s start := by simp only [memRead, withBuf, hread]
    rw [memReadSpan, memReadSpan, hmem, ih (by omega)]

theorem accCheck_withBuf (m : Memory) (s : State) : accCheck (withBuf m s) = withBuf m (accCheck s) := by
  unfold accCheck withBuf
  split_ifs <;> rfl

theorem restartTimer_withBuf (m : Memory) (s : State) : restartTimer (withBuf m s) = withBuf m (restartTimer s) := by
  simp only [restartTimer_eq, withBuf]

/-- What leaves `BUF` as it was and `COUNT` no higher keeps the agreement with the state of the other buffer. -/
theorem sameBelowCount_of_le {m : Memory} {s t : State} (h : SameBelowCount s (withBuf m s)) (hbuf : t.buf = s.buf)
    (hcount : t.count.toNat ≤ s.count.toNat) : SameBelowCount t (withBuf m t) := by
  refine ⟨rfl, fun i hi => ?_⟩
  rw [hbuf]
  exact h.2 i (by omega)

/-- An update that neither reads nor writes `BUF`, and does not raise `COUNT`, keeps the agreement. -/
theorem sameBelowCount_update (f : State → State) {s s' : State} (h : SameBelowCount s s')
    (hf : ∀ m u, f (withBuf m u) = withBuf m (f u)) (hcount : (f s).count.toNat ≤ s.count.toNat) :
    SameBelowCount (f s) (f s') := by
  have hs' : s' = withBuf s'.buf s := h.1
  have hbuf : (f s).buf = s.buf := congrArg (·.buf) (hf s.buf s)
  rw [hs'] at h ⊢
  rw [hf]
  exact sameBelowCount_of_le h hbuf hcount

/-- A byte stored keeps the agreement: the one index `COUNT` grows by holds the same byte in both (R41). -/
theorem storeByte_sameBelowCount {m : Memory} {s : State} (h : SameBelowCount s (withBuf m s)) (b : Byte) :
    SameBelowCount (storeByte b s) (storeByte b (withBuf m s)) := by
  refine ⟨rfl, fun i hi => ?_⟩
  change Memory.read (Memory.write m s.count.toNat b) i = Memory.read (Memory.write s.buf s.count.toNat b) i
  by_cases he : i = s.count.toNat
  · rw [he, Memory.read_write_self, Memory.read_write_self]
  · have hgrow : (s.count + 1).toNat ≤ s.count.toNat + 1 := Nat.mod_le _ _
    have hlt : i < (s.count + 1).toNat := hi
    rw [Memory.read_write_other _ _ he, Memory.read_write_other _ _ he]
    exact h.2 i (by omega)

theorem takeByte_sameBelowCount {m : Memory} {s : State} (h : SameBelowCount s (withBuf m s)) (b : Byte) :
    SameBelowCount (takeByte b s) (takeByte b (withBuf m s)) := by
  obtain ⟨hl, hb⟩ | ⟨hl, hb⟩ := takeByte_cases b s
  · rw [hb, takeByte_of_room (s := withBuf m s) hl]
    exact storeByte_sameBelowCount h b
  · rw [hb, takeByte_of_full (s := withBuf m s) hl]
    exact sameBelowCount_update (fun u => { u with ovf := true }) h (fun _ _ => rfl) le_rfl

/-- An operation ends alike in two states whose buffers agree below `COUNT`, with the agreement kept. -/
theorem exec_withBuf (i : Instr) {m : Memory} {s : State} (h : SameBelowCount s (withBuf m s)) :
    BothOutcomes SameBelowCount (exec i s) (exec i (withBuf m s)) := by
  have kept (t : State) (hbuf : t.buf = s.buf) (hcount : t.count = s.count) : SameBelowCount t (withBuf m t) :=
    sameBelowCount_of_le h hbuf (by rw [hcount])
  have refusal : BothOutcomes SameBelowCount (.next (raiseCmdError .badState s))
      (.next (raiseCmdError .badState (withBuf m s))) := .next (kept _ rfl rfl)
  cases i
  case nop | crcInit | crcUpd | crcRdlo | crcRdhi | crcRd | valRdcrc | accRdcnt | accRdstat | accRdexp | accRdtmo | accRdtmr
      | errClr =>
    exact .next (kept _ rfl rfl)
  case accRdbuf i =>
    simp only [exec, execAccRdbuf, bufRead_withBuf h]
    cases bufRead s i with
    | error f => exact .fault f
    | ok b => exact .next (kept _ rfl rfl)
  case valRun =>
    refine .ite (.ite (.next (kept _ rfl rfl)) ?_) refusal
    have hspan : memReadSpan (withBuf m s) 0 (withBuf m s).count.toNat = memReadSpan s 0 s.count.toNat :=
      memReadSpan_withBuf h (Nat.zero_add _).le
    rw [hspan]
    cases memReadSpan s 0 s.count.toNat with
    | error f => exact .fault f
    | ok frame => exact .next (kept _ rfl rfl)
  case accSetexp | accSettmo => exact .ite refusal (.next (kept _ rfl rfl))
  case accClr => exact .ite refusal (.next (sameBelowCount_of_le h rfl (Nat.zero_le _)))
  case accStart =>
    refine .ite refusal (.next ?_)
    change SameBelowCount _ (respond 0 (accCheck (withBuf m { clearWindow s with astate := .opened })))
    rw [accCheck_withBuf]
    exact sameBelowCount_of_le (t := respond 0 _) h (by simp) (by simp)
  case accAbort =>
    by_cases ho : s.astate = .opened
    · rw [exec_accAbort_of_open ho, exec_accAbort_of_open (s := withBuf m s) ho]
      exact .next (kept _ rfl rfl)
    · rw [exec_accAbort_of_not_open ho, exec_accAbort_of_not_open (s := withBuf m s) ho]
      exact .next (kept _ rfl rfl)
  case rxByte b =>
    have hrestarted := sameBelowCount_update restartTimer (takeByte_sameBelowCount h b) restartTimer_withBuf (by simp)
    exact .ite (.next (sameBelowCount_update accCheck hrestarted accCheck_withBuf (by simp))) (.next h)
  case tick =>
    refine .ite (.next ?_) (.next h)
    change SameBelowCount _ (accCheck (withBuf m { s with timer := s.timer + 1 }))
    rw [accCheck_withBuf]
    exact kept _ (by simp) (by simp)

/-- A cycle ends alike in two states that agree below `COUNT`: a reset and each of its parts keep the agreement. -/
theorem runCycle_sameBelowCount (c : Cycle) {s s' : State} (h : SameBelowCount s s') :
    BothOutcomes SameBelowCount (runCycle c s) (runCycle c s') := by
  refine runCycle_bothOutcomes (sameBelowCount_update resetState h (fun _ _ => rfl) (Nat.zero_le _))
    (sameBelowCount_update (fun u => { u with rsp := none }) h (fun _ _ => rfl) le_rfl)
    (fun e _ _ hu => sameBelowCount_update (raiseCmdError e) hu (fun _ _ => rfl) le_rfl) fun i u u' _ hu => ?_
  have hrest : u' = withBuf u'.buf u := hu.1
  rw [hrest] at hu ⊢
  exact exec_withBuf i hu

/-! ## The statements -/

/-- Settles O55: the two states present the same cycle, and the cycle keeps their agreement (`runCycle_sameBelowCount`). -/
theorem bytesAboveCountAreUnobservable : Obligations.BytesAboveCountAreUnobservable := by
  intro s s' t h hstep
  have hqueue : s'.pending = s.pending := congrArg (·.pending) h.1
  have hboth : BothOutcomes SameBelowCount (step s) (step s') := by
    rw [step, step, show nextCycle s' = nextCycle s by rw [nextCycle, hqueue, nextCycle]]
    exact runCycle_sameBelowCount _ (sameBelowCount_update dropCycle h (fun _ _ => rfl) le_rfl)
  rw [hstep] at hboth
  exact hboth.of_next

/-- Settles O41: a byte in a window is taken, restarts the timer and is followed by the close test, each by its own rules. -/
theorem receivedByteIsAppendedOrDropped : Obligations.ReceivedByteIsAppendedOrDropped := by
  refine ⟨fun b s ho => exec_rxByte_of_not_open ho b, fun b s ho => ?_⟩
  have hx := exec_rxByte_of_open ho b
  have hopen : (restartTimer (takeByte b s)).astate = .opened := by simp [ho]
  refine ⟨_, hx, fun hroom => ?_, fun hfull => ?_, by simp, ?_, ?_, exec_rxByte_sameButWindow hx⟩
  · have hb := takeByte_of_room hroom b
    refine ⟨by simp [hb], by simp [hb], by simp [hb], fun a ha => ?_⟩
    simpa [hb] using Memory.read_write_other s.buf b ha
  · simp [takeByte_of_full hfull]
  · simpa using accCheck_astate_of_open hopen
  · simpa using accCheck_reason_of_open hopen

end Sys2Proof.Machine
end

section
/-! PROOFS. The family 30_encoding.md: the words of the three ports (R60 to R66), what a command answers (R65, R170, R171), and
the sequences R68 abbreviates. First the decoder and the table of R63; then the answer of one command; then the generator's
sequences; then a whole reception; last the statements. -/

namespace Sys2Proof.Machine

open Sys2Proof.Spec

/-! ## The decoder and its words -/

/-- A word made of an opcode of the map, and of an operand with no must-be-zero bit set, decodes to the row's operation (R62). -/
theorem decode_cmdWord_of_row {op : Byte} {arg : Half} {row : OpRow} {i : Instr} (hr : opcodeRow op = some row)
    (ha : reservedBitsSet row.format arg = false) (hi : row.make arg = i) : decode (.cmd (cmdWord op arg)) = .ok i := by
  rw [decode_cmd_eq_ok, decodeCmd_cmdWord, hr, ← hi]
  simp [ha]

/-- The word of an operation decodes to it: a command is what its opcode's row makes of its operand, and an event's word carries
its strobe (R60 to R66). -/
theorem decode_encode (i : Instr) : decode (encode i) = .ok i := by
  cases i
  case crcUpd b =>
    have hb : reservedBitsSet .b (zextByte b) = false := by simp [reservedBitsSet]
    exact decode_cmdWord_of_row rfl hb (by simp)
  case rxByte b => exact decode_rx_eq_ok.mpr (decodeRx_rxWord b)
  case tick => rfl
  all_goals exact decode_cmdWord_of_row rfl rfl rfl

/-- A word decodes exactly when its opcode has a format and the format's must-be-zero bits are 0 (R62, R64). -/
theorem decodeCmd_ok_iff (op : Byte) (arg : Half) :
    (∃ i, decodeCmd (cmdWord op arg) = .ok i) ↔
      ∃ f, (opcodeRow op).map OpRow.format = some f ∧ reservedBitsSet f arg = false := by
  rw [decodeCmd_cmdWord]
  cases opcodeRow op with
  | none => simp
  | some row => cases h : reservedBitsSet row.format arg <;> simp [h]

/-- Every opcode is illegal by R64's ranges and has no format, or is legal and has R63's. -/
theorem opcodeRow_format_cases (op : Byte) :
    (opcodeIllegal op.toNat ∧ (opcodeRow op).map OpRow.format = none) ∨
    (¬ opcodeIllegal op.toNat ∧ op = 0x02#8 ∧ (opcodeRow op).map OpRow.format = some .b) ∨
    (¬ opcodeIllegal op.toNat ∧ (op = 0x20#8 ∨ op = 0x21#8 ∨ op = 0x26#8) ∧ (opcodeRow op).map OpRow.format = some .h) ∨
    (¬ opcodeIllegal op.toNat ∧ (op ≠ 0x02#8 ∧ op ≠ 0x20#8 ∧ op ≠ 0x21#8 ∧ op ≠ 0x26#8) ∧
      (opcodeRow op).map OpRow.format = some .n) := by
  unfold opcodeIllegal
  revert op
  decide

/-- The must-be-zero bits of format `B` are all 0 exactly for an operand below 256 (R61). -/
theorem reservedBitsSet_b (arg : Half) : reservedBitsSet .b arg = decide (256 ≤ arg.toNat) := by
  have h := hiByte_eq_zero_iff arg
  rw [Bool.eq_iff_iff, decide_eq_true_eq, ← Nat.not_lt, ← h]
  simp [reservedBitsSet]

/-- The must-be-zero bits of a format, as R63's table masks them beside the opcode. -/
def operandMask : Format → Half
  | .n => 0xFFFF
  | .b => 0xFF00
  | .h => 0x0000

/-- An operand masked to its must-be-zero bits is 0 exactly when none of them is set. -/
theorem and_operandMask_eq_zero (f : Format) (arg : Half) : arg &&& operandMask f = 0 ↔ reservedBitsSet f arg = false := by
  cases f with
  | n =>
    have hall : arg &&& 0xFFFF = arg := BitVec.and_allOnes
    rw [operandMask, hall]
    simp [reservedBitsSet]
  | b =>
    have hlo : loByte (arg &&& 0xFF00) = 0 := by
      rw [loByte, BitVec.extractLsb'_and]
      exact BitVec.and_zero
    have hhi : hiByte (arg &&& 0xFF00) = hiByte arg := by
      rw [hiByte, BitVec.extractLsb'_and]
      exact BitVec.and_allOnes
    have hiff : arg &&& 0xFF00 = 0 ↔ hiByte arg = 0 :=
      ⟨fun h => by rw [← hhi, h]; rfl, fun h => by rw [half_eq_bytes (arg &&& 0xFF00), hlo, hhi, h]; rfl⟩
    simpa [operandMask, reservedBitsSet] using hiff
  | h => simp [operandMask, reservedBitsSet]

/-- A row of R63's table has its opcode and no operand bit in `match`, and the opcode and the must-be-zero bits in `mask`. -/
theorem row_fields {r : TableRow} (hr : r ∈ commandTable) :
    r.pattern = cmdWord (opField r.pattern) 0 ∧ r.mask = cmdWord 0xFF (operandMask r.format) := by
  revert r
  decide

/-- A row of R63's table selects the words with its opcode and no must-be-zero bit set. -/
theorem selects_cmdWord {r : TableRow} (hr : r ∈ commandTable) (op : Byte) (arg : Half) :
    r.selects (cmdWord op arg) = true ↔ op = opField r.pattern ∧ reservedBitsSet r.format arg = false := by
  obtain ⟨hp, hm⟩ := row_fields hr
  have hop : op &&& 0xFF = op := BitVec.and_allOnes
  rw [TableRow.selects, beq_iff_eq, hm, hp, cmdWord_and, cmdWord_inj, hop, and_operandMask_eq_zero, opField_cmdWord]

/-- The opcode map agrees with a row of R63's table on the format and on the mnemonic. -/
theorem opcodeRow_of_mem_commandTable {r : TableRow} (hr : r ∈ commandTable) :
    ∃ row, opcodeRow (opField r.pattern) = some row ∧ row.format = r.format ∧ ∀ arg, (row.make arg).mnemonic = r.mnemonic := by
  fin_cases hr <;> exact ⟨_, rfl, rfl, fun _ => rfl⟩

/-- Every opcode of the map has a row of its format in R63's table. -/
theorem mem_commandTable_of_opcodeRow {op : Byte} :
    ∀ f ∈ (opcodeRow op).map OpRow.format, ∃ r ∈ commandTable, opField r.pattern = op ∧ r.format = f := by
  revert op
  decide

/-- No two rows of R63's table have one opcode. -/
theorem commandTable_opcode_nodup : (commandTable.map fun r => opField r.pattern).Nodup := by decide

/-- A word that a row selects decodes to an operation with the row's mnemonic. -/
theorem decodeCmd_of_selects {r : TableRow} {w : Word24} (hr : r ∈ commandTable) (hs : r.selects w = true) :
    ∃ i, decodeCmd w = .ok i ∧ r.mnemonic = i.mnemonic := by
  rw [← cmdWord_fields w, selects_cmdWord hr] at hs
  obtain ⟨hop, ha⟩ := hs
  obtain ⟨row, hrow, hf, hm⟩ := opcodeRow_of_mem_commandTable hr
  rw [← hop] at hrow
  rw [← hf] at ha
  have hd := decode_cmdWord_of_row hrow ha rfl
  rw [cmdWord_fields, decode_cmd_eq_ok] at hd
  exact ⟨_, hd, (hm _).symm⟩

/-- A word that decodes is selected by a row. -/
theorem selects_of_decodeCmd {w : Word24} {i : Instr} (h : decodeCmd w = .ok i) :
    ∃ r, r ∈ commandTable ∧ r.selects w = true := by
  rw [← cmdWord_fields w] at h ⊢
  obtain ⟨f, hf, ha⟩ := (decodeCmd_ok_iff _ _).mp ⟨i, h⟩
  obtain ⟨r, hr, hop, rfl⟩ := mem_commandTable_of_opcodeRow f hf
  exact ⟨r, hr, (selects_cmdWord hr _ _).mpr ⟨hop.symm, ha⟩⟩

/-! ## The answer of a command -/

/-- A command that only answers is refused in no state (R170). -/
theorem not_preconditionFails_of_onlyAnswers {i : Instr} {s : State} (h : onlyAnswers i = true) : ¬ preconditionFails s i := by
  cases i <;> simp_all [onlyAnswers, preconditionFails]

/-- What decodes on the command port is no event (R66). -/
theorem decodeCmd_isCommand {w : Word24} {i : Instr} (h : decodeCmd w = .ok i) : (∀ b, i ≠ .rxByte b) ∧ i ≠ .tick := by
  have hw := encode_of_decodeCmd h
  constructor
  · rintro b rfl
    cases hw
  · rintro rfl
    cases hw

/-- A legal command is refused exactly where R170 says, and else answers without error (R65, R171). -/
theorem exec_answer {w : Word24} {i : Instr} {s t : State} (hd : decodeCmd w = .ok i) (h : exec i s = .next t) :
    (preconditionFails s i ∧ t = raiseCmdError .badState s) ∨
    (¬ preconditionFails s i ∧ ∃ v, t.rsp = some ⟨false, v⟩) := by
  obtain ⟨hrx, htick⟩ := decodeCmd_isCommand hd
  cases exec_effect h
  case refuse hi => exact .inl ⟨hi, rfl⟩
  case answer v hi => exact .inr ⟨not_preconditionFails_of_onlyAnswers hi, v, rfl⟩
  case byte b _ | byteLost b _ => exact absurd rfl (hrx b)
  case tick | tickLost => exact absurd rfl htick
  all_goals exact .inr ⟨by simp_all [preconditionFails], _, rfl⟩

/-! ## The generator's sequences -/

/-- Bytes fed to the generator take `CRC` over all of them (R88); a sequence that begins with a response leaves one. -/
theorem execAll_crcUpd (body : List Byte) (c : Half) (s : State) :
    execAll (body.map .crcUpd) (respond 0 { s with crc := c }) = .next (respond 0 { s with crc := crcFrom c body }) := by
  induction body generalizing c with
  | nil => rfl
  | cons b body ih => exact ih (crcStep c b)

/-- `CRC.INIT` and the bytes of a sequence leave its CRC in `CRC` (R82, R90, R91). -/
theorem execAll_crcInit_crcUpd (body : List Byte) (s : State) :
    execAll (.crcInit :: body.map .crcUpd) s = .next (respond 0 { s with crc := crc16 body }) :=
  execAll_crcUpd body Config.crcInit s

/-- The low byte of a half, widened, is the half masked to it (R92). -/
theorem zextByte_loByte_eq_and (v : Half) : zextByte (loByte v) = v &&& 0x00FF := by
  refine BitVec.eq_of_toNat_eq ?_
  have hmask := Nat.and_two_pow_sub_one_eq_mod v.toNat 8
  have := v.isLt
  simp [zextByte, loByte] at hmask ⊢
  omega

/-- The high byte of a half, widened, is the half shifted down to it (R93). -/
theorem zextByte_hiByte_eq_shift (v : Half) : zextByte (hiByte v) = v >>> 8 := by
  refine BitVec.eq_of_toNat_eq ?_
  have := v.isLt
  simp [zextByte, hiByte, Nat.shiftRight_eq_div_pow]
  omega

/-- The CRC of a whole frame is 0 exactly when its last two bytes are the CRC of the rest (R86). -/
theorem crc16_eq_zero_iff_validate {f : List Byte} (h : 2 ≤ f.length) : crc16 f = 0 ↔ validate f = true := by
  rw [frame_split h, validate_append_two, crc16, crcFrom_append, crcFrom_cons, crcFrom_cons, crcFrom_nil, crcStep_two_eq_zero]
  simp [crc16]

/-! ## A whole reception -/

/-- A sequence of operations keeps the invariants. -/
theorem execAll_inv {ops : List Instr} {s t : State} (hi : s.Inv) (h : execAll ops s = .next t) : t.Inv := by
  induction ops generalizing s with
  | nil => cases h; exact hi
  | cons i ops ih =>
    obtain ⟨u, hu, ht⟩ := andThen_eq_next.mp h
    exact ih (exec_inv hi hu) ht

/-- The candidate frame after a byte is stored is the frame before it and the byte (R17, R41). -/
theorem candidateFrame_of_stored {s t : State} {b : Byte} (hbuf : t.buf = Memory.write s.buf s.count.toNat b)
    (hcount : t.count.toNat = s.count.toNat + 1) : candidateFrame t = candidateFrame s ++ [b] := by
  have hkept : ∀ i ∈ List.range s.count.toNat, Memory.read t.buf i = Memory.read s.buf i := fun i hi => by
    rw [hbuf, Memory.read_write_other _ _ (by have := List.mem_range.mp hi; omega)]
  rw [candidateFrame, hcount, List.range_succ, List.map_append, List.map_congr_left hkept, candidateFrame, hbuf]
  simp

/-- The empty frame is the candidate frame of a state with `COUNT` = 0. -/
theorem candidateFrame_of_count_zero {s : State} (h : s.count = 0) : candidateFrame s = [] := by
  simp [candidateFrame, h]

/-- The state in which a window has just been opened for a quota and a timeout, before its close test (R68, R124). -/
def opening (n tmo : Half) (s : State) : State :=
  { clearWindow s with expected := n, timeout := tmo, astate := .opened }

/-- The close test does not see the response that stands on the port. -/
theorem accCheck_respond (v : Half) (s : State) : accCheck (respond v s) = respond v (accCheck s) := by
  unfold accCheck respond
  split_ifs <;> rfl

/-- `ACC.ARM` outside a window opens one for its two operands and tests it at once (R68, R122 to R124). -/
theorem execAll_accArm {s : State} (ho : s.astate ≠ .opened) (n tmo : Half) :
    execAll (Pseudo.accArm n tmo).expand s = .next (respond 0 (accCheck (opening n tmo s))) := by
  have hexp : exec (.accSetexp n) s = .next (respond 0 { s with expected := n }) := if_neg ho
  have htmo : exec (.accSettmo tmo) (respond 0 { s with expected := n }) =
      .next (respond 0 { s with expected := n, timeout := tmo }) := if_neg ho
  have hstart : exec .accStart (respond 0 { s with expected := n, timeout := tmo }) =
      .next (respond 0 (accCheck (respond 0 (opening n tmo s)))) := if_neg ho
  rw [accCheck_respond] at hstart
  simp only [Pseudo.expand, execAll_cons, hexp, htmo, hstart, andThen_next, execAll_nil]
  rfl

/-- A window armed in `s` for `n` bytes has come to `t` with the bytes `g`: it is open while it wants more, has closed by its
quota with the last of them, has lost none, and has disturbed neither the generator nor the error record. -/
structure Receiving (s : State) (n : Nat) (g : List Byte) (t : State) : Prop where
  inv : t.Inv
  cfg : t.cfg = s.cfg
  expected : t.expected.toNat = n
  frame : candidateFrame t = g
  ovf : t.ovf = false
  crc : t.crc = s.crc
  cmderr : t.cmderr = s.cmderr
  lasterr : t.lasterr = s.lasterr
  open_of_lt : g.length < n → t.astate = .opened
  quota_of_eq : g.length = n → t.astate = .done ∧ t.reason = .quota

theorem Receiving.count {s t : State} {n : Nat} {g : List Byte} (h : Receiving s n g t) : t.count.toNat = g.length := by
  rw [← h.frame, candidateFrame_length]

/-- A length that a buffer holds is the 16-bit value of itself (R5). -/
theorem toNat_ofNat_of_le_bufSize {c : Config} (h : c.wf = true) {n : Nat} (hn : n ≤ c.bufSize) :
    (BitVec.ofNat 16 n).toNat = n := by
  simp only [Config.wf, Bool.and_eq_true, decide_eq_true_eq] at h
  rw [BitVec.toNat_ofNat]
  omega

/-- Arming a window for a length the buffer holds, with a timeout unless the length is 0, begins a reception (R68, R124). -/
theorem receiving_of_arm {s : State} {n : Nat} {tmo : Half} (hi : s.Inv) (ho : s.astate ≠ .opened) (hn : n ≤ s.cfg.bufSize)
    (ht : 0 < n → 0 < tmo) :
    ∃ t, execAll (Pseudo.accArm (BitVec.ofNat 16 n) tmo).expand s = .next t ∧ Receiving s n [] t ∧ t.timeout = tmo ∧
      t.timer = 0 := by
  have hx := execAll_accArm ho (BitVec.ofNat 16 n) tmo
  have hnat : (BitVec.ofNat 16 n).toNat = n := toNat_ofNat_of_le_bufSize hi.cfg_wf hn
  have hquota : BitVec.ofNat 16 n ≤ 0 ↔ n = 0 := by
    rw [BitVec.le_def, hnat]
    simp
  have hastate : (accCheck (opening (BitVec.ofNat 16 n) tmo s)).astate =
      if BitVec.ofNat 16 n ≤ 0 ∨ tmo ≤ 0 then .done else .opened := accCheck_astate_of_open rfl
  have hreason : (accCheck (opening (BitVec.ofNat 16 n) tmo s)).reason =
      if BitVec.ofNat 16 n ≤ 0 then .quota else if tmo ≤ 0 then .tmo else .none := accCheck_reason_of_open rfl
  refine ⟨_, hx, ?_, by simp [opening], by simp [opening]⟩
  exact
    { inv := execAll_inv hi hx
      cfg := by simp [opening]
      expected := by simpa [opening] using hnat
      frame := candidateFrame_of_count_zero (by simp [opening])
      ovf := by simp [opening]
      crc := by simp [opening]
      cmderr := by simp [opening]
      lasterr := by simp [opening]
      open_of_lt := fun h => by
        have hpos : 0 < n := h
        rw [respond_astate, hastate, if_neg]
        exact not_or.mpr ⟨fun hle => hpos.ne' (hquota.mp hle), BitVec.not_le.mpr (ht hpos)⟩
      quota_of_eq := fun h => by
        have hzero : n = 0 := h.symm
        rw [respond_astate, respond_reason, hastate, hreason, if_pos (.inl (hquota.mpr hzero)), if_pos (hquota.mpr hzero)]
        exact ⟨rfl, rfl⟩ }

/-- Ticks that stay short of the timeout are counted and change nothing else (R134). -/
theorem execAll_ticks {s : State} (hi : s.Inv) (ho : s.astate = .opened) {k : Nat} (hk : s.timer.toNat + k < s.timeout.toNat) :
    ∃ x : Half, execAll (List.replicate k .tick) s = .next { s with timer := x } ∧ x.toNat = s.timer.toNat + k := by
  induction k generalizing s with
  | zero => exact ⟨s.timer, rfl, rfl⟩
  | succ k ih =>
    obtain ⟨hle, -⟩ | ⟨-, hx⟩ := exec_tick_cases hi ho
    · omega
    have hn := half_succ_toNat (hi.open_timer ho)
    have hk' : ({ s with timer := s.timer + 1 } : State).timer.toNat + k < s.timeout.toNat := by
      show (s.timer + 1).toNat + k < _
      omega
    obtain ⟨x, hrest, hxn⟩ := ih (s := { s with timer := s.timer + 1 }) (exec_inv hi hx) ho hk'
    refine ⟨x, ?_, by rw [hxn]; show (s.timer + 1).toNat + k = _; omega⟩
    rw [List.replicate_succ, execAll_cons, hx, andThen_next, hrest]

/-- A byte the window wants is received (R133). -/
theorem Receiving.byte {s t : State} {n : Nat} {g : List Byte} (h : Receiving s n g t) (hg : g.length < n)
    (hn : n ≤ s.cfg.bufSize) (b : Byte) :
    ∃ u, exec (.rxByte b) t = .next u ∧ Receiving s n (g ++ [b]) u ∧ u.timeout = t.timeout ∧
      u.timer = if s.cfg.timeoutRestart then 0 else t.timer := by
  have ho := h.open_of_lt hg
  have hstored := half_succ_toNat (h.inv.open_quota ho)
  have hcount := h.count
  have hexp := h.expected
  have hlen : (g ++ [b]).length = g.length + 1 := by simp
  have hframe {u : State} (hbuf : u.buf = Memory.write t.buf t.count.toNat b) (hc : u.count = t.count + 1) :
      candidateFrame u = g ++ [b] := by
    rw [candidateFrame_of_stored hbuf (by rw [hc, hstored]), h.frame]
  obtain ⟨-, hq, hx⟩ | ⟨-, hq, hx⟩ | ⟨hfull, -⟩ := exec_rxByte_cases h.inv ho b
  · refine ⟨_, hx, { h with
      inv := exec_inv h.inv hx
      frame := hframe rfl rfl
      open_of_lt := fun hlt => by omega
      quota_of_eq := fun _ => ⟨rfl, rfl⟩ }, rfl, by rw [h.cfg]⟩
  · refine ⟨_, hx, { h with
      inv := exec_inv h.inv hx
      frame := hframe rfl rfl
      open_of_lt := fun _ => ho
      quota_of_eq := fun heq => by omega }, rfl, by rw [h.cfg]⟩
  · rw [h.cfg] at hfull
    omega

/-- Bytes with ticks before each come in time: from a timer of `x`, each of them before the timer reaches `tmo`. -/
def InTime (restart : Bool) (tmo : Nat) : Nat → List (Nat × Byte) → Prop
  | _, [] => True
  | x, p :: l => x + p.1 < tmo ∧ InTime restart tmo (if restart then 0 else x + p.1) l

theorem inTime_of_silences {tmo : Nat} {l : List (Nat × Byte)} (h : ∀ p ∈ l, p.1 < tmo) : InTime true tmo 0 l := by
  induction l with
  | nil => trivial
  | cons p l ih => exact ⟨by simpa using h p (by simp), ih fun q hq => h q (by simp [hq])⟩

theorem inTime_of_sum {tmo x : Nat} {l : List (Nat × Byte)} (h : l = [] ∨ x + (l.map Prod.fst).sum < tmo) :
    InTime false tmo x l := by
  induction l generalizing x with
  | nil => trivial
  | cons p l ih =>
    have hsum : x + (p.1 + (l.map Prod.fst).sum) < tmo := by simpa using h
    exact ⟨by omega, ih (.inr (by simp; omega))⟩

/-- Bytes that come in time are all received (R133, R136). -/
theorem Receiving.bytes {s t : State} {g : List Byte} {l : List (Nat × Byte)} (h : Receiving s (g.length + l.length) g t)
    (hn : g.length + l.length ≤ s.cfg.bufSize) (hl : InTime s.cfg.timeoutRestart t.timeout.toNat t.timer.toNat l) :
    ∃ u, execAll (l.flatMap ticksThenByte) t = .next u ∧ Receiving s (g.length + l.length) (g ++ l.map Prod.snd) u := by
  induction l generalizing g t with
  | nil => exact ⟨t, rfl, by simpa using h⟩
  | cons p l ih =>
    obtain ⟨k, b⟩ := p
    obtain ⟨hk, hl⟩ := hl
    have hg : g.length < g.length + ((k, b) :: l).length := by simp
    obtain ⟨x, hx, hxn⟩ := execAll_ticks h.inv (h.open_of_lt hg) hk
    have hr : Receiving s (g.length + ((k, b) :: l).length) g { t with timer := x } :=
      { h with inv := execAll_inv h.inv hx }
    obtain ⟨u, hu, hru, htmo, htimer⟩ := hr.byte hg hn b
    have hnow : u.timer.toNat = if s.cfg.timeoutRestart then 0 else t.timer.toNat + k := by
      rw [htimer]
      split
      · rfl
      · exact hxn
    have hlen : g.length + ((k, b) :: l).length = (g ++ [b]).length + l.length := by simp; omega
    rw [hlen] at hru hn ⊢
    obtain ⟨v, hv, hrv⟩ := ih hru hn (by rw [htmo, hnow]; exact hl)
    refine ⟨v, ?_, by simpa using hrv⟩
    rw [List.flatMap_cons, ticksThenByte, execAll_append, execAll_append, hx, andThen_next, execAll_cons, hu]
    exact hv

/-- A reception that has ended is validated (R110). -/
theorem Receiving.validated {s t : State} {f : List Byte} (h : Receiving s f.length f t) :
    ∃ u, exec .valRun t = .next u ∧ ReceivedAndValidated s u f := by
  obtain ⟨hd, hr⟩ := h.quota_of_eq rfl
  have hcount := h.count
  have hlt : t.count < 2 ↔ f.length < 2 := by rw [count_lt_two_iff, hcount]
  obtain ⟨hnd, -⟩ | ⟨-, hc, hx⟩ | ⟨-, hc, -, hx⟩ | ⟨-, -, hfull, -⟩ := execValRun_cases t
  · exact absurd hd hnd
  · have hv := validate_of_length_lt (hlt.mp hc)
    exact ⟨_, hx, hd, hr, hcount, h.frame, h.ovf, rfl, hv.symm, by simp [hlt.mp hc], by simp [hv], h.crc, h.cmderr, h.lasterr⟩
  · have hlong := (not_congr hlt).mp (BitVec.not_lt.mpr hc)
    have hv : crcOkFlag (crc16 (frameBody (candidateFrame t))) (candidateFrame t) t.ovf = validate f := by
      rw [h.frame, h.ovf, validate_of_le_length (by omega)]
      simp [crcOkFlag]
    refine ⟨_, hx, hd, hr, hcount, h.frame, h.ovf, rfl, hv, by simp [hlong], ?_, h.crc, h.cmderr, h.lasterr⟩
    simp [hv, zextBit]
  · have := h.inv.count_le
    omega

/-- A frame without ticks is a sequence of bytes with no tick before each (R68). -/
theorem flatMap_ticksThenByte_of_no_ticks (f : List Byte) :
    (f.map fun b => (0, b)).flatMap ticksThenByte = (Pseudo.rxFrame f).expand := by
  induction f with
  | nil => rfl
  | cons b f ih => exact congrArg (Instr.rxByte b :: ·) ih

/-- Bytes outside a window are lost (R133). -/
theorem execAll_rxFrame_of_not_open {s : State} (ho : s.astate ≠ .opened) (f : List Byte) :
    execAll (Pseudo.rxFrame f).expand s = .next s := by
  induction f with
  | nil => rfl
  | cons b f ih => exact (congrArg (andThen · _) (exec_rxByte_of_not_open ho b)).trans ih

/-- Arm, receive in time, validate: the whole reception with ticks before each byte. -/
theorem receivedAndValidated_of_inTime {s : State} {l : List (Nat × Byte)} {tmo : Half} (hi : s.Inv) (ho : s.astate ≠ .opened)
    (hn : l.length ≤ s.cfg.bufSize) (ht : 0 < l.length → 0 < tmo) (hl : InTime s.cfg.timeoutRestart tmo.toNat 0 l) :
    ∃ t, execAll ((Pseudo.accArm (BitVec.ofNat 16 l.length) tmo).expand ++ l.flatMap ticksThenByte ++ [.valRun]) s = .next t ∧
      ReceivedAndValidated s t (l.map Prod.snd) := by
  obtain ⟨t, harm, hr, htmo, htimer⟩ := receiving_of_arm hi ho hn ht
  obtain ⟨u, hrx, hru⟩ := Receiving.bytes (g := []) (l := l) (by simpa using hr) (by simpa using hn)
    (by simpa [htmo, htimer] using hl)
  obtain ⟨v, hval, hv⟩ := Receiving.validated (s := s) (f := l.map Prod.snd) (t := u) (by simpa using hru)
  refine ⟨v, ?_, hv⟩
  rw [execAll_append, execAll_append, harm, andThen_next, hrx, andThen_next, execAll_cons, hval]
  rfl

/-- The two conditions on the ticks, each for its mode, bring the bytes in time and leave the timeout nonzero. -/
theorem inTime_of_mode {restart : Bool} {l : List (Nat × Byte)} {tmo : Half}
    (h : if restart = true then ∀ p ∈ l, p.1 < tmo.toNat else l = [] ∨ (l.map Prod.fst).sum < tmo.toNat) :
    InTime restart tmo.toNat 0 l := by
  cases restart with
  | true => exact inTime_of_silences (by simpa using h)
  | false => exact inTime_of_sum (by simpa using h)

/-- Bytes that come in time need a timeout other than 0. -/
theorem InTime.pos {restart : Bool} {tmo : Half} {l : List (Nat × Byte)} (h : InTime restart tmo.toNat 0 l)
    (hl : 0 < l.length) : 0 < tmo := by
  cases l with
  | nil => cases hl
  | cons p l =>
    obtain ⟨hp, -⟩ := h
    rw [BitVec.lt_def]
    simp
    omega

/-- With no tick at all, a timeout other than 0 is time enough. -/
theorem inTime_of_no_ticks {tmo : Nat} {f : List Byte} (h : f = [] ∨ 0 < tmo) (restart : Bool) :
    InTime restart tmo 0 (f.map fun b => (0, b)) := by
  induction f with
  | nil => trivial
  | cons b f ih =>
    have ht : 0 < tmo := by simpa using h
    refine ⟨ht, ?_⟩
    cases restart <;> exact ih (.inr ht)

/-- With a timeout of 0 a window for a nonempty frame is closed by its first test (R124). -/
theorem accCheck_opening_of_no_time {n : Half} (hn : n ≠ 0) (s : State) :
    accCheck (opening n 0 s) = closeWindow .tmo (opening n 0 s) := by
  obtain ⟨-, hq, -⟩ | ⟨-, -, -, h⟩ | ⟨-, -, ht, -⟩ | ⟨ho, -⟩ := accCheck_cases (opening n 0 s)
  · exact absurd (BitVec.le_zero_iff.mp hq) hn
  · exact h
  · exact absurd ht BitVec.not_lt_zero
  · exact absurd rfl ho

/-! ## The statements -/

/-- Settles O2, for every operation (`decode_encode`): each is well formed by its type. -/
theorem decodeOfEncodeIsTheOperation : Obligations.DecodeOfEncodeIsTheOperation := fun i _ => decode_encode i

/-- Settles O3, port by port. -/
theorem decodedWordIsTheEncoding : Obligations.DecodedWordIsTheEncoding := by
  intro p i h
  cases p with
  | cmd w => exact encode_of_decodeCmd (decode_cmd_eq_ok.mp h)
  | rx v =>
    have hd := decode_rx_eq_ok.mp h
    have hv : rxValid v = true := by
      by_contra hv
      rw [decodeRx_of_not_valid (by simpa using hv)] at hd
      cases hd
    rw [decodeRx_eq_some hd, encode, rxWord_rxData hv]
  | tick v =>
    have hd := decode_tick_eq_ok.mp h
    obtain rfl | rfl := BitVec.eq_zero_or_eq_one v
    · cases hd
    · rw [decodeTick_eq_some hd, encode]

/-- Settles O4: each opcode is of one of `opcodeRow_format_cases`, which with the operand fixes the decoder's answer. -/
theorem everyCommandWordIsOneRowOrOneRefusal : Obligations.EveryCommandWordIsOneRowOrOneRefusal := by
  intro op arg
  simp only [decodeCmd_error_iff, decodeCmd_ok_iff, ne_eq]
  obtain ⟨hi, hf⟩ | ⟨hi, rfl, hf⟩ | ⟨hi, ho, hf⟩ | ⟨hi, ho, hf⟩ := opcodeRow_format_cases op <;> rw [hf]
  · simp [hi]
  · have hlegal : ¬ opcodeIllegal 2 := hi
    have hzero : arg = 0#16 → arg.toNat < 256 := by
      rintro rfl
      decide
    simpa [hlegal, reservedBitsSet_b] using hzero
  · obtain rfl | rfl | rfl := ho <;> simpa [reservedBitsSet] using hi
  · obtain ⟨h2, h20, h21, h26⟩ := ho
    simp [hi, h2, h20, h21, h26, reservedBitsSet]

/-- Settles O5: a row selects a word exactly when the word has the row's opcode and decodes. -/
theorem decoderAgreesWithMatchAndMask : Obligations.DecoderAgreesWithMatchAndMask := by
  intro w
  refine ⟨⟨fun ⟨i, h⟩ => selects_of_decodeCmd h, fun ⟨r, hr, hs⟩ => ?_⟩, fun i r h hr hs => ?_, fun r r' hr hr' hs hs' => ?_⟩
  · obtain ⟨i, hi, -⟩ := decodeCmd_of_selects hr hs
    exact ⟨i, hi⟩
  · obtain ⟨j, hj, hm⟩ := decodeCmd_of_selects hr hs
    obtain rfl : i = j := by simpa [h] using hj
    exact hm
  · rw [← cmdWord_fields w, selects_cmdWord hr] at hs
    rw [← cmdWord_fields w, selects_cmdWord hr'] at hs'
    exact List.inj_on_of_nodup_map commandTable_opcode_nodup hr hr' (hs.1.symm.trans hs'.1)

/-- Settles O13: the events of the cycle leave the response and the error record of its command. -/
theorem everyAcceptedCommandHasOneResponse : Obligations.EveryAcceptedCommandHasOneResponse := by
  intro s t hr h
  obtain ⟨hr', -⟩ | ⟨-, u, hc, ht⟩ := step_cases h
  · simp [hr] at hr'
  rw [ht.rsp, ht.cmderr, ht.lasterr]
  obtain ⟨hnone, rfl⟩ | ⟨w, hw, hw'⟩ := hc
  · exact ⟨fun _ => rfl, fun w hw => by simp [hnone] at hw⟩
  refine ⟨fun hnone => by simp [hw] at hnone, fun w' hcmd => ?_⟩
  obtain rfl : w = w' := by simpa [hw] using hcmd
  obtain ⟨i, hd, hx⟩ | ⟨e, hd, rfl⟩ := hw'
  · obtain ⟨hp, rfl⟩ | ⟨hp, v, hv⟩ := exec_answer hd hx
    · exact ⟨_, rfl, ⟨fun _ => .inr ⟨i, hd, hp⟩, fun _ => rfl⟩, fun _ => ⟨.badState, rfl, rfl, rfl⟩⟩
    · refine ⟨_, hv, ⟨nofun, ?_⟩, nofun⟩
      rintro (⟨e, he⟩ | ⟨j, hj, hpj⟩)
      · simp [hd] at he
      · obtain rfl : i = j := by simpa [hd] using hj
        exact absurd hpj hp
  · exact ⟨_, rfl, ⟨fun _ => .inl ⟨e, hd⟩, fun _ => rfl⟩, fun _ => ⟨e, rfl, rfl, rfl⟩⟩

/-- Settles O17: a refusal is error entry alone, and a command that answers keeps the record (`exec_errorRecord`). -/
theorem refusedCommandsHaveNoOtherEffect : Obligations.RefusedCommandsHaveNoOtherEffect := by
  intro w s t h
  obtain ⟨i, hd, hx⟩ | ⟨e, -, rfl⟩ := runCommand_cases h
  · obtain ⟨-, rfl⟩ | ⟨-, hrsp⟩ := exec_answer hd hx
    · exact .inl ⟨.badState, rfl⟩
    · obtain rfl | ⟨rfl, -⟩ | ⟨hm, hl, -⟩ := exec_errorRecord hx
      · exact .inl ⟨.badState, rfl⟩
      · exact .inr ⟨hrsp, .inl hd⟩
      · exact .inr ⟨hrsp, .inr ⟨hm, hl⟩⟩
  · exact .inl ⟨e, raiseCmdError_eq_refusedWith e s⟩

/-- Settles O58: the body leaves its CRC (`execAll_crcInit_crcUpd`), and the reads answer its bytes. -/
theorem genFrameAnswersTheBodysCrc : Obligations.GenFrameAnswersTheBodysCrc := by
  intro s body
  rw [Pseudo.expand, execAll_append, execAll_append, execAll_crcInit_crcUpd, ← zextByte_loByte_eq_and,
    ← zextByte_hiByte_eq_shift]
  exact ⟨rfl, rfl⟩

/-- Settles O59: the answer is the CRC of the whole frame, R86's residue. -/
theorem valStreamAnswersTheResidue : Obligations.ValStreamAnswersTheResidue := by
  intro s f h
  refine ⟨crc16 f, ?_, crc16_eq_zero_iff_validate h⟩
  rw [Pseudo.expand, execAll_append, execAll_crcInit_crcUpd]
  rfl

/-- Settles O60: a reception in time is received whole, without ticks as with them, and a window armed with a timeout of 0 is
closed before its first byte. -/
theorem receivedFrameIsValidated : Obligations.ReceivedFrameIsValidated := by
  refine ⟨fun s f tmo hi ho hn h => ?_, fun s l tmo hi ho hn h => ?_, fun s f hi ho hf hn => ?_⟩
  · have htmo : f = [] ∨ 0 < tmo.toNat := h.imp_right fun h => Nat.pos_of_ne_zero fun h0 => h (BitVec.eq_of_toNat_eq h0)
    have hl := inTime_of_no_ticks htmo s.cfg.timeoutRestart
    simpa [flatMap_ticksThenByte_of_no_ticks, Function.comp_def] using
      receivedAndValidated_of_inTime hi ho (by simpa using hn) hl.pos hl
  · have hl := inTime_of_mode h
    exact receivedAndValidated_of_inTime hi ho hn hl.pos hl
  · have hne : BitVec.ofNat 16 f.length ≠ 0 := fun h0 => by
      have hnat := toNat_ofNat_of_le_bufSize hi.cfg_wf hn
      rw [h0] at hnat
      exact hf (List.length_eq_zero_iff.mp hnat.symm)
    have harm := execAll_accArm ho (BitVec.ofNat 16 f.length) 0
    rw [accCheck_opening_of_no_time hne] at harm
    have hlost := execAll_rxFrame_of_not_open
      (s := respond 0 (closeWindow .tmo (opening (BitVec.ofNat 16 f.length) 0 s))) nofun f
    refine ⟨_, by rw [execAll_append, execAll_append, harm, andThen_next, hlost]; rfl, ?_⟩
    exact ⟨rfl, rfl, rfl, rfl, rfl, rfl, rfl, rfl, rfl, rfl, rfl⟩

/-- Settles O1, word by word. -/
theorem specWordsDecode : Obligations.SpecWordsDecode :=
  ⟨rfl, rfl, rfl, rfl, rfl, rfl, rfl, rfl, rfl, rfl, rfl, rfl⟩

/-- Settles O10: neither the empty queue nor a cycle with every strobe 0 presents anything. -/
theorem quietCycleChangesNothing : Obligations.QuietCycleChangesNothing := by
  refine ⟨fun s h => ?_, fun s rest d h => ?_⟩
  · simp [step, runCycle, nextCycle, dropCycle, h]
  · have hv : rxValid (d.setWidth 9) = false := by simp [rxValid]
    rw [step_of_pending h rfl]
    simp [decodeRx_of_not_valid hv]

/-- Settles O14, by the decoder's branch of `runCommand`. -/
theorem undecodableCommandIsRefused : Obligations.UndecodableCommandIsRefused := by
  intro w e s h
  rw [runCommand_of_error h, raiseCmdError_eq_refusedWith]

end Sys2Proof.Machine
end

section
/-! PROOFS. The family 40_crc.md: the CRC as a function of bytes (R80 to R88, R96), and the generator's commands (R90 to R94).
First the byte step in its table form; then the frame and the residue of a valid one; then what an error pattern does to the
residue; then the generator fed among other operations; last the statements. -/

namespace Sys2Proof.Machine

open Sys2Proof.Spec

/-! ## The byte step in its table form -/

/-- A byte XORed into the register leaves the register's high byte as it was. -/
theorem shiftRight_xor_zextByte (c : Half) (b : Byte) : (c ^^^ zextByte b) >>> 8 = c >>> 8 := by
  have hb : zextByte b >>> 8 = 0#16 := by rw [← zextByte_hiByte_eq_shift, hiByte_zextByte]; rfl
  rw [BitVec.ushiftRight_xor_distrib, hb, BitVec.xor_zero]

/-- Eight shift steps move the high byte down and replace the low byte by its table entry: they are linear over XOR, and the
high byte alone only shifts (R83's derivation). -/
theorem crcShifts_eight (x : Half) : crcShifts 8 x = (x >>> 8) ^^^ crcTable (loByte x) := by
  calc crcShifts 8 x = crcShifts 8 (zextByte (loByte x) ^^^ zextByte (hiByte x) <<< 8) := by rw [← half_eq_bytes]
    _ = crcTable (loByte x) ^^^ x >>> 8 := by rw [crcShifts_xor, crcShifts_high, zextByte_hiByte_eq_shift]; rfl
    _ = (x >>> 8) ^^^ crcTable (loByte x) := BitVec.xor_comm ..

/-- The table form of the byte step is the shift form (R83). -/
theorem crcStep_eq_crcStepTable (c : Half) (b : Byte) : crcStep c b = crcStepTable c b := by
  rw [crcStep, crcShifts_eight, shiftRight_xor_zextByte, crcStepTable]

/-- The listing R83 prints is the table, entry by entry (R83). -/
theorem crcListing_eq_map_crcTable : crcListing = (List.range 256).map fun i => crcTable (BitVec.ofNat 8 i) := by
  have h0 : crcListing0 = (List.range' 0 64).map fun i => crcTable (BitVec.ofNat 8 i) := by decide
  have h1 : crcListing1 = (List.range' 64 64).map fun i => crcTable (BitVec.ofNat 8 i) := by decide
  have h2 : crcListing2 = (List.range' 128 64).map fun i => crcTable (BitVec.ofNat 8 i) := by decide
  have h3 : crcListing3 = (List.range' 192 64).map fun i => crcTable (BitVec.ofNat 8 i) := by decide
  have hrange : List.range 256 = List.range' 0 64 ++ List.range' 64 64 ++ List.range' 128 64 ++ List.range' 192 64 := by
    rw [List.range_eq_range', List.range'_append_1, List.range'_append_1, List.range'_append_1]
  rw [crcListing, hrange, List.map_append, List.map_append, List.map_append, ← h0, ← h1, ← h2, ← h3]

/-! ## The frame and its residue -/

/-- The CRC of a sequence in two parts goes on from the first part's CRC (R88). -/
theorem crc16_append (s t : List Byte) : crc16 (s ++ t) = crcFrom (crc16 s) t := crcFrom_append _ s t

/-- A frame made with its CRC is valid (R86 (a)). -/
theorem validate_appendCrc (s : List Byte) : validate (appendCrc s) = true := by
  rw [appendCrc, crcBytes, validate_append_two]
  simp

/-- A frame is valid exactly when it has at least two bytes and the CRC of the whole of it is 0 (R86 (b)). -/
theorem validate_iff_residue {f : List Byte} : validate f = true ↔ 2 ≤ f.length ∧ crc16 f = 0 := by
  by_cases h : 2 ≤ f.length
  · rw [← crc16_eq_zero_iff_validate h, and_iff_right h]
  · simp [validate_of_length_lt (Nat.lt_of_not_le h), h]

/-- A valid frame with bytes added is valid exactly when those take the register from 0 back to 0 (R96). -/
theorem validate_append_iff {f : List Byte} (t : List Byte) (h : validate f = true) :
    validate (f ++ t) = true ↔ crcFrom 0 t = 0 := by
  obtain ⟨hlen, hcrc⟩ := validate_iff_residue.mp h
  rw [validate_iff_residue, crc16_append, hcrc, List.length_append]
  exact and_iff_right (hlen.trans (Nat.le_add_right ..))

/-- Zero bytes keep a register at 0. -/
theorem crcFrom_replicate_zero (n : Nat) : crcFrom 0 (List.replicate n 0) = 0 := by
  induction n with
  | zero => rfl
  | succ n ih => rw [List.replicate_succ, crcFrom_cons, crcStep_zero_zero, ih]

/-- One or two bytes take a register from 0 back to 0 only if they are zero. -/
theorem eq_zero_of_crcFrom_zero {t : List Byte} (hlen : t.length ≤ 2) (h : crcFrom 0 t = 0) : ∀ b ∈ t, b = 0 := by
  match t, hlen with
  | [], _ => simp
  | [d], _ => simpa using crcStep_zero_left h
  | [d, e], _ => simpa using crcStep_zero_two h

/-! ## An error pattern in a frame -/

/-- One byte XORed into a frame is that byte of the frame modified. -/
theorem corruptAt_singleton (i : Nat) (d : Byte) (f : List Byte) : corruptAt i [d] f = f.modify i (· ^^^ d) := by
  induction f generalizing i with
  | nil => cases i <;> rfl
  | cons x f ih =>
    cases i with
    | zero => simp [corruptAt]
    | succ i => simp [corruptAt, ih]

/-- The register after a changed sequence is the one after the unchanged sequence, XORed with what the error pattern alone and
zero bytes after it make of the difference the registers began with (R87's derivation: the loop is linear over XOR). -/
theorem crcFrom_corruptAt_zero {e f : List Byte} (h : e.length ≤ f.length) (c y : Half) :
    crcFrom (c ^^^ y) (corruptAt 0 e f) = crcFrom c f ^^^ crcFrom (crcFrom y e) ((f.drop e.length).map fun _ => 0) := by
  induction e generalizing f c y with
  | nil => simpa using crcFrom_xor f c y
  | cons d e ih =>
    cases f with
    | nil => simp at h
    | cons x f =>
      rw [corruptAt, crcFrom_cons, crcStep_xor, ih (by simpa using h)]
      rfl

/-- A valid frame with an error pattern in it is valid exactly when the pattern takes the register from 0 back to 0: before the
pattern the registers agree, and after it zero bytes lose no difference. -/
theorem validate_corruptAt_iff {i : Nat} {e f : List Byte} (hi : i + e.length ≤ f.length) (h : validate f = true) :
    validate (corruptAt i e f) = true ↔ crcFrom 0 e = 0 := by
  obtain ⟨p, g, rfl, rfl⟩ : ∃ p g, f = p ++ g ∧ i = p.length :=
    ⟨f.take i, f.drop i, (List.take_append_drop i f).symm, by simp; omega⟩
  obtain ⟨hlen, hcrc⟩ := validate_iff_residue.mp h
  have hg : e.length ≤ g.length := by simpa using hi
  have hchange : crc16 (corruptAt p.length e (p ++ g)) = crcFrom (crcFrom 0 e) ((g.drop e.length).map fun _ => 0) := by
    have hxor := crcFrom_corruptAt_zero hg (crc16 p) 0
    rw [← crc16_append, hcrc] at hxor
    simpa [corruptAt_append, crc16_append] using hxor
  rw [validate_iff_residue, corruptAt_length, and_iff_right hlen, hchange]
  refine ⟨crcFrom_zeros_eq_zero, fun he => ?_⟩
  rw [he, List.map_const']
  exact crcFrom_replicate_zero _

/-- A pattern of one or two bytes, not all zero, is detected wherever it falls (R87). -/
theorem validate_corruptAt_eq_false {i : Nat} {e f : List Byte} (hi : i + e.length ≤ f.length) (h : validate f = true)
    (hlen : e.length ≤ 2) (hne : ∃ b ∈ e, b ≠ 0) : validate (corruptAt i e f) = false := by
  rw [← Bool.not_eq_true, validate_corruptAt_iff hi h]
  obtain ⟨b, hb, hb0⟩ := hne
  exact fun hz => hb0 (eq_zero_of_crcFrom_zero hlen hz b hb)

/-! ## The generator among other operations -/

/-- An operation feeds no byte, or is a `CRC.UPD`. -/
theorem fedByte_cases (i : Instr) : fedByte i = none ∨ ∃ b, i = .crcUpd b := by
  cases i
  case crcUpd b => exact .inr ⟨b, rfl⟩
  all_goals exact .inl rfl

/-- What a sequence feeds is what its first operation feeds, then what the others do. -/
theorem fedBytes_cons (i : Instr) (ops : List Instr) : fedBytes (i :: ops) = (fedByte i).toList ++ fedBytes ops := by
  cases h : fedByte i <;> simp [fedBytes, h]

theorem fedBytes_append (x y : List Instr) : fedBytes (x ++ y) = fedBytes x ++ fedBytes y := List.filterMap_append

/-- An operation other than `CRC.INIT` takes `CRC` over the byte it feeds, if it feeds one (R11). -/
theorem exec_crc_fedByte {i : Instr} {s t : State} (hi : i ≠ .crcInit) (h : exec i s = .next t) :
    t.crc = crcFrom s.crc (fedByte i).toList := by
  obtain hn | ⟨b, rfl⟩ := fedByte_cases i
  · rw [hn]
    obtain hc | ⟨rfl, -⟩ | ⟨b, rfl, -⟩ := exec_crc h
    · exact hc
    · exact absurd rfl hi
    · cases hn
  · cases h
    rfl

/-- Operations other than `CRC.INIT` take `CRC` over the bytes they feed (R88). -/
theorem execAll_crc_fedBytes {ops : List Instr} {s t : State} (hi : Instr.crcInit ∉ ops) (h : execAll ops s = .next t) :
    t.crc = crcFrom s.crc (fedBytes ops) := by
  induction ops generalizing s with
  | nil => cases h; rfl
  | cons i ops ih =>
    obtain ⟨u, hu, ht⟩ := andThen_eq_next.mp h
    rw [List.mem_cons, not_or] at hi
    rw [ih hi.2 ht, exec_crc_fedByte (Ne.symm hi.1) hu, fedBytes_cons, crcFrom_append]

/-! ## The statements -/

/-- Settles O21: the table form by `crcShifts_eight`, the listing by its 256 entries. -/
theorem tableFormEqualsShiftForm : Obligations.TableFormEqualsShiftForm :=
  ⟨fun _ => rfl, crcStep_eq_crcStepTable, crcListing_eq_map_crcTable⟩

/-- Settles O23, from the residue form `validate_iff_residue`. -/
theorem validityIsTheZeroResidue : Obligations.ValidityIsTheZeroResidue := by
  refine ⟨validate_appendCrc, fun s => ?_, fun f h => ?_, fun f => ?_, crcStep_own_bytes⟩
  · exact (validate_iff_residue.mp (validate_appendCrc s)).2
  · exact (crc16_eq_zero_iff_validate h).symm
  · rw [Bool.eq_iff_iff, validate_iff_residue]
    simp [validateByResidue]

/-- Settles O24: each change is an error pattern of one or two bytes that are not all zero (`validate_corruptAt_eq_false`). -/
theorem corruptedBytesAreDetected : Obligations.CorruptedBytesAreDetected := by
  refine ⟨fun s i d hi hd => ⟨?_, fun j hj => ?_, ?_⟩, fun s i d e hi hde => ?_, fun s p q x d hs hd => ?_,
    fun s p q x y d e hs hde => ?_⟩
  · rw [corruptAt_singleton, List.getElem?_modify_eq, Option.map_eq_map]
  · rw [corruptAt_singleton, List.getElem?_modify_ne _ _ (Ne.symm hj)]
  · have hlast : i ≤ s.length + 1 := Nat.le_of_lt_succ hi
    exact validate_corruptAt_eq_false (by simpa using hlast) (validate_appendCrc s) (by simp) (by simpa using hd)
  · exact validate_corruptAt_eq_false (by simpa using hi) (validate_appendCrc s) (by simp) (by simpa using hde)
  · have h : validate (corruptAt p.length [d] (p ++ x :: q)) = false :=
      validate_corruptAt_eq_false (by simp) (hs ▸ validate_appendCrc s) (by simp) (by simpa using hd)
    simpa [corruptAt_append, corruptAt] using h
  · have h : validate (corruptAt p.length [d, e] (p ++ x :: y :: q)) = false :=
      validate_corruptAt_eq_false (by simp) (hs ▸ validate_appendCrc s) (by simp) (by simpa using hde)
    simpa [corruptAt_append, corruptAt] using h

/-- Settles O25: `validate_append_iff` decides each clause by where the added bytes take a register of 0. -/
theorem trailingZerosStillValidate : Obligations.TrailingZerosStillValidate := by
  refine ⟨fun f t h => ?_, fun f n h => ?_, fun f t h hlen ht => ?_⟩
  · rw [validate_append_iff t h, crcFrom_eq_foldl]
  · exact (validate_append_iff _ h).mpr (crcFrom_replicate_zero n)
  · exact eq_zero_of_crcFrom_zero hlen ((validate_append_iff t h).mp ht)

/-- Settles O26, by induction over the operations (`execAll_crc_fedBytes`). -/
theorem crcMayBeFedInPieces : Obligations.CrcMayBeFedInPieces := by
  refine ⟨fun _ _ _ hi h => execAll_crc_fedBytes hi h, fun ops s t hi h => ?_, crc16_append, fedBytes_append⟩
  exact execAll_crc_fedBytes (s := respond 0 { s with crc := Config.crcInit }) hi h

/-- Settles O19: R80's step, R81's eight of it, and their values. -/
theorem crcStepIsEightShiftSteps : Obligations.CrcStepIsEightShiftSteps :=
  ⟨fun _ => rfl, fun _ _ => rfl, by decide⟩

/-- Settles O20, from `crc16_append` and the loop as a left fold. -/
theorem crc16IsALeftFold : Obligations.Crc16IsALeftFold :=
  ⟨rfl, fun s b => crc16_append s [b], fun s t => by rw [crc16_append, crcFrom_eq_foldl],
    by simp [crc16, crcStep, crcShifts, crcBit, zextByte]⟩

/-- Settles O22, from `validate` on a body with two more bytes and on fewer than two. -/
theorem framesEndInTheirCrcLowByteFirst : Obligations.FramesEndInTheirCrcLowByteFirst := by
  refine ⟨fun _ => rfl, fun s x y => ?_, fun _ h => validate_of_length_lt h, ?_, by decide⟩
  · rw [validate_append_two, Bool.and_eq_true, beq_iff_eq, beq_iff_eq]
    rfl
  · have hcrc : crc16 [0x01, 0x03, 0x00, 0x00, 0x00, 0x02] = 0x0BC4 := by simp [crc16, crcStep, crcShifts, crcBit, zextByte]
    rw [appendCrc, hcrc]
    rfl

/-- Settles O28: the meanings as they stand, and the refusals of formats `N` and `B`. -/
theorem crcWritesTouchOnlyCrc : Obligations.CrcWritesTouchOnlyCrc := by
  refine ⟨rfl, operandReserved_of_format rfl, fun _ => rfl, fun b => ?_, fun _ _ => rfl, fun s arg ha => ?_, by decide,
    by decide⟩
  · exact decode_cmd_eq_ok.mp (decode_encode (.crcUpd b))
  · have hset : reservedBitsSet .b arg = true := by rw [reservedBitsSet_b, decide_eq_true ha]
    exact undecodableCommandIsRefused _ _ s ((decodeCmd_error_iff ..).mpr ⟨rfl, hset⟩)

/-- Settles O29: the answers' bytes are the register masked and shifted, and the three opcodes are of format `N`. -/
theorem crcReadsAnswerTheRegister : Obligations.CrcReadsAnswerTheRegister := by
  refine ⟨rfl, rfl, rfl, fun s => ?_, fun s => ?_, fun _ => rfl, operandReserved_of_format rfl,
    operandReserved_of_format rfl, operandReserved_of_format rfl⟩
  · rw [← zextByte_loByte_eq_and]
    rfl
  · rw [← zextByte_hiByte_eq_shift]
    rfl

end Sys2Proof.Machine
end

section
/-! PROOFS. The family 41_validator.md: what a validation answers and writes (R110), how the window it looks at came to close
(R121, R124, R125, R133, R134), and the complete set of outcomes (R175). -/

namespace Sys2Proof.Machine

open Sys2Proof.Spec

/-! ## What `VAL.RUN` does -/

/-- A validation that is not refused, on either side of two bytes (R110). -/
theorem exec_valRun_next {s t : State} (hd : s.astate = .done) (h : exec .valRun s = .next t) :
    (s.count.toNat < 2 ∧ t = respond 0 (validateShort s)) ∨
    (2 ≤ s.count.toNat ∧
      t = respond (zextBit (validateFrame (candidateFrame s) s).crcok) (validateFrame (candidateFrame s) s)) := by
  change execValRun s = .next t at h
  obtain ⟨hnd, -⟩ | ⟨-, hc, hx⟩ | ⟨-, hc, -, hx⟩ | ⟨-, -, -, f, hx⟩ := execValRun_cases s
  · exact absurd hd hnd
  · rw [hx] at h
    cases h
    exact .inl ⟨(count_lt_two_iff s).mp hc, rfl⟩
  · rw [hx] at h
    cases h
    exact .inr ⟨BitVec.le_def.mp hc, rfl⟩
  · simp [hx] at h

/-- A validation outside `DONE` is refused (R110, errors). -/
theorem exec_valRun_of_not_done {s : State} (hd : s.astate ≠ .done) : exec .valRun s = .next (refusedWith .badState s) :=
  raiseCmdError_eq_refusedWith .badState s ▸ if_neg hd

/-- A validation of fewer than two bytes (R110, first branch). -/
theorem exec_valRun_of_short {s : State} (hd : s.astate = .done) (hc : s.count.toNat < 2) :
    exec .valRun s = .next (respond 0 (validateShort s)) :=
  (if_pos hd).trans (if_pos ((count_lt_two_iff s).mpr hc))

/-- A validation of at least two bytes, all of them in the buffer (R110, second branch). -/
theorem exec_valRun_of_frame {s : State} (hd : s.astate = .done) (hc : 2 ≤ s.count.toNat)
    (hle : s.count.toNat ≤ s.cfg.bufSize) :
    exec .valRun s =
      .next (respond (zextBit (validateFrame (candidateFrame s) s).crcok) (validateFrame (candidateFrame s) s)) := by
  obtain ⟨t, ht⟩ := exec_goes_on .valRun hle
  obtain ⟨hlt, -⟩ | ⟨-, rfl⟩ := exec_valRun_next hd ht
  · omega
  · exact ht

/-- Repeating a validation gives the same state and response (R110 case (6)): it writes nothing that it reads. -/
theorem exec_valRun_repeat {s t : State} (hd : s.astate = .done) (hle : s.count.toNat ≤ s.cfg.bufSize)
    (h : exec .valRun s = .next t) : exec .valRun t = .next t := by
  obtain ⟨hc, rfl⟩ | ⟨hc, rfl⟩ := exec_valRun_next hd h
  · exact exec_valRun_of_short (s := respond 0 (validateShort s)) hd hc
  · exact exec_valRun_of_frame (s := respond _ (validateFrame (candidateFrame s) s)) hd hc hle

/-- On a frame that lost no byte the flag is `validate` of the frame (R110). -/
theorem validateFrame_crcok_of_no_loss {s : State} (hc : 2 ≤ s.count.toNat) (hovf : s.ovf = false) :
    (validateFrame (candidateFrame s) s).crcok = validate (candidateFrame s) := by
  rw [validateFrame_crcok, crcOkFlag, validate_of_le_length (by simpa using hc), hovf, Bool.not_false, Bool.and_true]

/-- A frame that lost bytes is rejected, whatever its trailer (R110). -/
theorem validateFrame_crcok_of_loss (f : List Byte) {s : State} (hovf : s.ovf = true) : (validateFrame f s).crcok = false := by
  rw [validateFrame_crcok, crcOkFlag, hovf, Bool.not_true, Bool.and_false]

/-- The flag on the candidate frame, in the bytes of the buffer (R43, R85, R110). -/
theorem crcOkFlag_candidateFrame_iff {s : State} (hc : 2 ≤ s.count.toNat) (c : Half) :
    crcOkFlag c (candidateFrame s) s.ovf = true ↔ loByte c = Memory.read s.buf (s.count.toNat - 2) ∧
      hiByte c = Memory.read s.buf (s.count.toNat - 1) ∧ s.ovf = false := by
  rw [crcOkFlag, trailerMatches, candidateFrame_length, candidateFrame_getD s (by omega), candidateFrame_getD s (by omega)]
  simp [and_assoc]

/-! ## How a window closed -/

/-- A frame too short to validate has lost no byte: the buffer holds at least two (R5, R28 (j)). -/
theorem State.Inv.ovf_of_short {s : State} (hi : s.Inv) (hc : s.count.toNat < 2) : s.ovf = false := by
  have hwf := hi.cfg_wf
  simp only [Config.wf, Bool.and_eq_true, decide_eq_true_eq] at hwf
  exact hi.ovf_of_room (by omega)

/-- The close test that closes an open window does so by the quota when it is met, by the timeout else (R121). -/
theorem accCheck_closes {s : State} (ho : s.astate = .opened) (hd : (accCheck s).astate = .done) :
    (s.expected ≤ s.count ∧ (accCheck s).reason = .quota) ∨ (s.count < s.expected ∧ (accCheck s).reason = .tmo) := by
  obtain ⟨-, hq, h⟩ | ⟨-, hq, -, h⟩ | ⟨-, -, -, h⟩ | ⟨hn, -⟩ := accCheck_cases s
  · exact .inl ⟨hq, by rw [h]; rfl⟩
  · exact .inr ⟨hq, by rw [h]; rfl⟩
  · simp [h, ho] at hd
  · exact absurd ho hn

/-- The operation that closes a window leaves it full to its quota with no byte lost, or below its quota, closed by the timeout
or the abort (R121, R124, R125, R133, R134). -/
theorem closed_by_quota_or_below_it {i : Instr} {s t : State} (hi : s.Inv) (h : exec i s = .next t) (hd : t.astate = .done)
    (hw : s.astate = .opened ∨ i = .accStart) :
    (t.reason = .quota ∧ t.count = t.expected ∧ t.ovf = false) ∨
    ((t.reason = .tmo ∨ t.reason = .abort) ∧ t.count < t.expected) := by
  have hstart (hs : s.astate = .done) : i = .accStart := hw.resolve_left (by simp [hs])
  obtain ⟨hbyte, htick, -⟩ := eventsCloseForTheirOwnReason
  cases exec_effect h
  case start =>
    obtain ⟨hq, hr⟩ | ⟨hq, hr⟩ := accCheck_closes rfl hd
    · have hzero : s.expected = 0 := BitVec.le_zero_iff.mp hq
      exact .inl ⟨hr, by simp [hzero], by simp⟩
    · exact .inr ⟨.inl hr, by simpa using hq⟩
  case byte ho =>
    obtain ⟨-, hclose⟩ := hbyte _ s _ hi ho h
    obtain ⟨hr, hq, -, hovf⟩ := hclose hd
    exact .inl ⟨hr, hq, hovf⟩
  case tick ho =>
    obtain ⟨-, hclose⟩ := htick s _ hi ho h
    exact .inr ⟨.inl (hclose hd), by simpa using hi.open_quota ho⟩
  case abort ho => exact .inr ⟨.inr rfl, hi.open_quota ho⟩
  case answer v ha =>
    cases hstart hd
    cases ha
  case refuse hp =>
    cases hstart hd
    exact absurd (hp.symm.trans hd) nofun
  case clear => exact absurd hd nofun
  case crcInit | crcUpd | errClr | validateShort | validateFrame | setExpected | setTimeout | abortNothing | byteLost
    | tickLost =>
    exact absurd (hstart hd) nofun

/-! ## The statements -/

/-- Settles O39: the frame read is the candidate frame, and its flag is said in the buffer's bytes and as `validate`. -/
theorem validationOfAFrame : Obligations.ValidationOfAFrame := by
  intro s hd hc hle
  exact ⟨crc16 (frameBody (candidateFrame s)), (validateFrame (candidateFrame s) s).crcok,
    by rw [frameBody_candidateFrame], crcOkFlag_candidateFrame_iff hc _, validateFrame_crcok_of_no_loss hc,
    exec_valRun_of_frame hd hc hle⟩

/-- Settles O40: how the window closed (`closed_by_quota_or_below_it`) and which side of two bytes its frame is on fix the row
of R175's table. -/
theorem outcomesAreTheTables : Obligations.OutcomesAreTheTables := by
  intro i s t u hi h hd hw hu
  have hti : t.Inv := exec_inv hi h
  have hclosed := closed_by_quota_or_below_it hi h hd hw
  refine ⟨exec_valRun_repeat hd hti.count_le hu, ?_⟩
  obtain ⟨hc, rfl⟩ | ⟨hc, rfl⟩ := exec_valRun_next hd hu
  · have hovf := hti.ovf_of_short hc
    refine ⟨rfl, rfl, rfl, rfl, ?_⟩
    obtain ⟨hr, hq, -⟩ | ⟨hr, -⟩ := hclosed
    · exact .inr (.inl ⟨hr, hq, hc, hovf, rfl, rfl⟩)
    · exact .inr (.inr (.inl ⟨hr, hc, hovf, rfl, rfl⟩))
  · refine ⟨rfl, rfl, rfl, rfl, ?_⟩
    obtain ⟨hr, hq, hovf⟩ | ⟨hr, hq⟩ := hclosed
    · exact .inl ⟨hr, hq, hc, hovf, rfl, validateFrame_crcok_of_no_loss hc hovf⟩
    · cases hovf : t.ovf with
      | false => exact .inr (.inr (.inr (.inl ⟨hr, hc, hq, hovf, rfl, validateFrame_crcok_of_no_loss hc hovf⟩)))
      | true =>
        exact .inr (.inr (.inr (.inr ⟨hr, hti.ovf_full hovf, hovf, rfl, validateFrame_crcok_of_loss _ hovf⟩)))

/-- Settles O30: the meanings as they stand, and the five opcodes are of format `N`. -/
theorem registerReadsAnswerTheRegister : Obligations.RegisterReadsAnswerTheRegister :=
  ⟨rfl, rfl, rfl, rfl, rfl, fun _ => rfl, fun _ => rfl, fun _ => rfl, fun _ => rfl, fun _ => rfl,
    operandReserved_of_format rfl, operandReserved_of_format rfl, operandReserved_of_format rfl,
    operandReserved_of_format rfl, operandReserved_of_format rfl⟩

/-- Settles O38: `VAL.RUN` is of format `N`, refused outside `DONE`, and answers 0 on fewer than two bytes. -/
theorem validationOfAShortFrame : Obligations.ValidationOfAShortFrame :=
  ⟨rfl, operandReserved_of_format rfl, fun _ => exec_valRun_of_not_done, fun _ => exec_valRun_of_short⟩

end Sys2Proof.Machine
end

section
/-! PROOFS. The family 42_accumulator.md: the close test (R121), the accumulator's commands (R122 to R128) and the tick (R134),
the transition table of the window (R135), and the two bounds on how long it stays open (R136). -/

namespace Sys2Proof.Machine

open Sys2Proof.Spec

/-! ## Refusals and the buffer read -/

/-- A command is refused in every state that fails its precondition (R170). -/
theorem exec_of_preconditionFails {i : Instr} {s : State} (h : preconditionFails s i) :
    exec i s = .next (refusedWith .badState s) := by
  rw [← raiseCmdError_eq_refusedWith]
  cases i
  case valRun => exact if_neg h
  case accSetexp | accSettmo | accStart | accClr => exact if_pos h
  all_goals exact h.elim

/-- `ACC.RDBUF` answers what the gated read answers (R128). -/
theorem exec_accRdbuf_of_ok {h : Half} {s : State} {b : Byte} (hb : bufRead s h = .ok b) :
    exec (.accRdbuf h) s = .next (answered (zextByte b) s) := by
  simp only [exec, execAccRdbuf, hb]
  rfl

/-! ## The transition table -/

theorem transition_of_onlyAnswers {i : Instr} (h : onlyAnswers i = true) (s : State) :
    transition s i = (s.astate, s.reason) := by
  cases i <;> simp_all [onlyAnswers, transition]

theorem transition_of_preconditionFails {i : Instr} {s : State} (h : preconditionFails s i) :
    transition s i = (s.astate, s.reason) := by
  cases i <;> simp_all [preconditionFails, transition]

/-- `ACC.START` outside a window as one update (R124): the window is opened empty, and closed at once for a limit of 0. -/
theorem accCheck_started (s : State) : accCheck { clearWindow s with astate := .opened } = { clearWindow s with
    astate := if s.expected = 0 ∨ s.timeout = 0 then .done else .opened
    reason := if s.expected = 0 then .quota else if s.timeout = 0 then .tmo else .none } := by
  rw [accCheck_of_open rfl]
  simp [clearWindow]

/-- Where a byte in an open window takes `ASTATE` and `REASON` (R133, R135): the timer, restarted or not, is below its limit. -/
theorem exec_rxByte_transition {b : Byte} {s t : State} (hi : s.Inv) (ho : s.astate = .opened)
    (h : exec (.rxByte b) s = .next t) : (t.astate, t.reason) = transition s (.rxByte b) := by
  obtain ⟨hl, hq, hx⟩ | ⟨-, hq, hx⟩ | ⟨hfull, hx⟩ := exec_rxByte_cases hi ho b <;> rw [hx] at h <;> cases h
  · exact (if_pos ⟨ho, hq, hl⟩).symm
  · exact (if_neg fun ⟨_, hmet, _⟩ => by omega).symm
  · exact (if_neg fun ⟨_, _, hroom⟩ => by omega).symm

/-- Where a tick in an open window takes `ASTATE` and `REASON` (R134, R135): the quota is not met. -/
theorem exec_tick_transition {s t : State} (hi : s.Inv) (ho : s.astate = .opened) (h : exec .tick s = .next t) :
    (t.astate, t.reason) = transition s .tick := by
  obtain ⟨ht, hx⟩ | ⟨ht, hx⟩ := exec_tick_cases hi ho <;> rw [hx] at h <;> cases h
  · exact (if_pos ⟨ho, ht⟩).symm
  · exact (if_neg fun ⟨_, hmet⟩ => by omega).symm

/-- Every operation takes `ASTATE` and `REASON` where R135's table says, by its effects. -/
theorem exec_transition {i : Instr} {s t : State} (hi : s.Inv) (h : exec i s = .next t) :
    (t.astate, t.reason) = transition s i := by
  cases exec_effect h
  case answer v ha => exact (transition_of_onlyAnswers ha s).symm
  case refuse hp => exact (transition_of_preconditionFails hp).symm
  case byte b ho => exact exec_rxByte_transition hi ho h
  case tick ho => exact exec_tick_transition hi ho h
  case start ho =>
    rw [respond_astate, respond_reason, accCheck_started, transition, if_neg ho]
    by_cases he : s.expected = 0
    · simp only [he, true_or, if_true]
    · by_cases ht : s.timeout = 0 <;> simp only [he, ht, false_or, if_true, if_false]
  all_goals simp_all [transition]

/-! ## How long a window stays open -/

/-- In `DONE` the operations other than `ACC.START` and `ACC.CLR` go on and leave the window closed (R17). -/
theorem execAll_of_done {ops : List Instr} {s : State} (hi : s.Inv) (hd : s.astate = .done)
    (hops : ∀ i ∈ ops, i ≠ .accStart ∧ i ≠ .accClr) : ∃ t, execAll ops s = .next t ∧ t.astate = .done := by
  induction ops generalizing s with
  | nil => exact ⟨s, rfl, hd⟩
  | cons i ops ih =>
    obtain ⟨⟨hstart, hclr⟩, hrest⟩ := List.forall_mem_cons.mp hops
    obtain ⟨u, hu⟩ := exec_goes_on i hi.count_le
    obtain ⟨-, -, -, -, hastate, -⟩ := closedFrameIsFrozen i s u hd hstart hclr hu
    rw [execAll_cons, hu, andThen_next]
    exact ih (exec_inv hi hu) (hastate.trans hd) hrest

/-- The close test leaves an open window open or closes it (R121). -/
theorem accCheck_open_or_done {s : State} (ho : s.astate = .opened) :
    (accCheck s).astate = .opened ∨ (accCheck s).astate = .done := by
  rw [accCheck_astate_of_open ho]
  split
  · exact .inr rfl
  · exact .inl rfl

/-- An operation in an open window leaves it open or closes it (R17). -/
theorem exec_open_or_done {i : Instr} {s t : State} (ho : s.astate = .opened) (h : exec i s = .next t) :
    t.astate = .opened ∨ t.astate = .done := by
  cases exec_effect h
  case byte => exact accCheck_open_or_done (by simpa using ho)
  case tick => exact accCheck_open_or_done ho
  case abort => exact .inr rfl
  case start hn | clear hn => exact absurd ho hn
  all_goals exact .inl ho

/-- With a fixed deadline the timer of an open window counts its ticks and nothing else (R16). -/
theorem exec_timer_of_fixed_deadline {i : Instr} {s t : State} (hi : s.Inv) (ho : s.astate = .opened)
    (hfixed : s.cfg.timeoutRestart = false) (h : exec i s = .next t) :
    t.timer.toNat = s.timer.toNat + [i].count .tick := by
  have htimer : t.timer = (countersAfter s i).2 := congrArg Prod.snd (countersMoveOnlyAsStated i s t h)
  rw [htimer]
  cases i
  case tick => simpa [countersAfter, ho] using half_succ_toNat (hi.open_timer ho)
  all_goals simp [countersAfter, ho, hfixed]

/-- With a fixed deadline some first part of operations that bring enough ticks closes the window in time (R136). -/
theorem exists_first_part_done_of_fixed_deadline {s : State} {ops : List Instr} (hi : s.Inv) (ho : s.astate = .opened)
    (hfixed : s.cfg.timeoutRestart = false) (hticks : s.timeout.toNat ≤ s.timer.toNat + ops.count .tick) :
    ∃ (pre suf : List Instr) (t : State), ops = pre ++ suf ∧ execAll pre s = .next t ∧ t.astate = .done ∧
      s.timer.toNat + pre.count .tick ≤ s.timeout.toNat := by
  have hbelow := BitVec.lt_def.mp (hi.open_timer ho)
  induction ops generalizing s with
  | nil => exact absurd hticks (Nat.not_le.mpr hbelow)
  | cons i ops ih =>
    obtain ⟨u, hu⟩ := exec_goes_on i hi.count_le
    have htimer := exec_timer_of_fixed_deadline hi ho hfixed hu
    obtain hopen | hdone := exec_open_or_done ho hu
    · have htimeout : u.timeout = s.timeout := (exec_timeout hu).resolve_right fun ⟨_, _, hn, _⟩ => hn ho
      obtain ⟨hcfg, -⟩ := exec_cfg_pending hu
      have hcount (l : List Instr) : (i :: l).count .tick = [i].count .tick + l.count .tick :=
        List.count_append (l₁ := [i])
      rw [hcount] at hticks
      obtain ⟨pre, suf, t, rfl, ht, hd, hle⟩ := ih (exec_inv hi hu) hopen (hcfg ▸ hfixed) (by rw [htimeout]; omega)
        (BitVec.lt_def.mp ((exec_inv hi hu).open_timer hopen))
      refine ⟨i :: pre, suf, t, rfl, by rw [execAll_cons, hu, andThen_next, ht], hd, ?_⟩
      rw [htimeout] at hle
      rw [hcount]
      omega
    · have hone : [i].count .tick ≤ 1 := List.count_le_length
      exact ⟨[i], ops, u, rfl, by rw [execAll_cons, hu]; rfl, hdone, by omega⟩

/-- Consecutive ticks close a window when they reach the timeout, in either mode (R136). -/
theorem execAll_ticks_done {s : State} {n : Nat} (hi : s.Inv) (ho : s.astate = .opened)
    (hn : s.timeout.toNat ≤ s.timer.toNat + n) :
    ∃ t, execAll (List.replicate n .tick) s = .next t ∧ t.astate = .done := by
  induction n generalizing s with
  | zero => exact absurd hn (Nat.not_le.mpr (BitVec.lt_def.mp (hi.open_timer ho)))
  | succ n ih =>
    rw [List.replicate_succ, execAll_cons]
    obtain ⟨-, hx⟩ | ⟨-, hx⟩ := exec_tick_cases hi ho <;> rw [hx, andThen_next]
    · refine execAll_of_done (exec_inv hi hx) rfl fun i hmem => ?_
      simp [List.eq_of_mem_replicate hmem]
    · refine ih (exec_inv hi hx) ho ?_
      have hcounted := half_succ_toNat (hi.open_timer ho)
      show s.timeout.toNat ≤ (s.timer + 1).toNat + n
      omega

/-- In the silence mode and with the quota off, a byte leaves the window open and begins the silence anew (R133, R138). -/
theorem exec_rxByte_of_quota_off {s : State} (hi : s.Inv) (ho : s.astate = .opened)
    (hrestart : s.cfg.timeoutRestart = true) (hoff : s.cfg.bufSize < s.expected.toNat) (b : Byte) :
    ∃ t, exec (.rxByte b) s = .next t ∧ t.astate = .opened ∧ t.timer = 0 := by
  obtain ⟨hl, hq, -⟩ | ⟨-, -, hx⟩ | ⟨-, hx⟩ := exec_rxByte_cases hi ho b
  · omega
  · exact ⟨_, hx, ho, if_pos hrestart⟩
  · exact ⟨_, hx, ho, if_pos hrestart⟩

/-- In the silence mode and with the quota off, bytes before each silence reaches the timeout keep the window open (R136). -/
theorem execAll_ticksThenByte_of_quota_off {s : State} {l : List (Nat × Byte)} (hi : s.Inv) (ho : s.astate = .opened)
    (hrestart : s.cfg.timeoutRestart = true) (hzero : s.timer = 0) (hoff : s.cfg.bufSize < s.expected.toNat)
    (hl : ∀ p ∈ l, p.1 < s.timeout.toNat) :
    ∃ t, execAll (l.flatMap ticksThenByte) s = .next t ∧ t.astate = .opened ∧ t.timer = 0 := by
  induction l generalizing s with
  | nil => exact ⟨s, rfl, ho, hzero⟩
  | cons p l ih =>
    obtain ⟨hp, hl⟩ := List.forall_mem_cons.mp hl
    obtain ⟨x, hx, -⟩ := execAll_ticks hi ho (k := p.1) (by simpa [hzero] using hp)
    have hxi : { s with timer := x }.Inv := execAll_inv hi hx
    obtain ⟨u, hu, huo, huz⟩ := exec_rxByte_of_quota_off hxi ho hrestart hoff p.2
    have hsame := exec_rxByte_sameButWindow hu
    rw [List.flatMap_cons, ticksThenByte, execAll_append, execAll_append, hx, andThen_next, execAll_cons, hu]
    refine ih (exec_inv hxi hu) huo ?_ huz ?_ ?_
    · rw [hsame.cfg]
      exact hrestart
    · rw [hsame.cfg, hsame.expected]
      exact hoff
    · rw [hsame.timeout]
      exact hl

/-! ## The statements -/

/-- Settles O49: each operation by its effects (`exec_transition`), a reset by R30's values. -/
theorem transitionsAreTheTables : Obligations.TransitionsAreTheTables := by
  refine ⟨fun i s t => exec_transition, fun s t hr h => ?_⟩
  obtain ⟨-, rfl⟩ | ⟨hr', -⟩ := step_cases h
  · exact ⟨rfl, rfl⟩
  · simp [hr] at hr'

/-- Settles O56: the first part that closes the window, and that without `ACC.START` and `ACC.CLR` it stays closed after it. -/
theorem fixedDeadlineIsHonoured : Obligations.FixedDeadlineIsHonoured := by
  refine ⟨fun s ops => exists_first_part_done_of_fixed_deadline, fun s ops hi ho hfixed hops hticks => ?_⟩
  obtain ⟨pre, suf, t, rfl, ht, hd, -⟩ := exists_first_part_done_of_fixed_deadline hi ho hfixed hticks
  rw [execAll_append, ht, andThen_next]
  exact execAll_of_done (execAll_inv hi ht) hd fun i hmem => hops i (List.mem_append_right _ hmem)

/-- Settles O57: ticks alone reach the timeout, and a byte in the silence mode begins the silence anew. -/
theorem silenceModeClosesOnlyOnSilence : Obligations.SilenceModeClosesOnlyOnSilence :=
  ⟨fun _ _ => execAll_ticks_done, fun _ _ => execAll_ticksThenByte_of_quota_off⟩

/-- Settles O32: the gated read on either side of `COUNT`; format `H` has no must-be-zero bit. -/
theorem bufferReadIsGatedByCount : Obligations.BufferReadIsGatedByCount :=
  ⟨fun h => decode_cmd_eq_ok.mp (decode_encode (.accRdbuf h)), fun _ _ hc => exec_accRdbuf_of_ok (bufRead_of_le hc),
    fun _ _ hc hb => exec_accRdbuf_of_ok (bufRead_of_lt hc hb)⟩

/-- Settles O33, by the two branches of each load; format `H` has no must-be-zero bit. -/
theorem configurationCommandsLoadTheirRegister : Obligations.ConfigurationCommandsLoadTheirRegister :=
  ⟨fun h => ⟨decode_cmd_eq_ok.mp (decode_encode (.accSetexp h)), decode_cmd_eq_ok.mp (decode_encode (.accSettmo h))⟩,
    fun _ _ ho => if_neg ho, fun _ _ ho => if_neg ho,
    fun h _ ho => exec_of_preconditionFails (i := .accSetexp h) ho,
    fun h _ ho => exec_of_preconditionFails (i := .accSettmo h) ho⟩

/-- Settles O34, branch by branch of the close test. -/
theorem closeTestIsQuotaThenTimeout : Obligations.CloseTestIsQuotaThenTimeout := by
  refine ⟨fun _ => accCheck_of_not_open, fun s ho hq => ?_, fun s ho hq ht => ?_, fun s ho hq ht => ?_⟩
  · rw [accCheck, if_pos ho, if_pos (BitVec.le_def.mpr hq), closeWindow]
  · rw [accCheck, if_pos ho, if_neg (BitVec.not_le.mpr (BitVec.lt_def.mpr hq)), if_pos (BitVec.le_def.mpr ht), closeWindow]
  · rw [accCheck, if_pos ho, if_neg (BitVec.not_le.mpr (BitVec.lt_def.mpr hq)),
      if_neg (BitVec.not_le.mpr (BitVec.lt_def.mpr ht))]

/-- Settles O35: outside a window the start is `accCheck_started`, inside one its precondition fails. -/
theorem startOpensAWindow : Obligations.StartOpensAWindow := by
  refine ⟨rfl, operandReserved_of_format rfl, fun s ho => exec_of_preconditionFails (i := .accStart) ho, fun s ho => ?_⟩
  rw [exec_accStart_of_not_open ho, accCheck_started]
  rfl

/-- Settles O36; in the cycle of a byte and a tick the abort comes first, and both find the window closed. -/
theorem abortClosesAnOpenWindow : Obligations.AbortClosesAnOpenWindow := by
  refine ⟨rfl, operandReserved_of_format rfl, fun s ho => exec_accAbort_of_open ho,
    fun s ho => exec_accAbort_of_not_open ho, fun s rest b ho h => ?_⟩
  have habort := exec_accAbort_of_open (s := { s with pending := rest, rsp := none }) ho
  have hclosed : (respond 0 (closeWindow .abort { s with pending := rest, rsp := none })).astate ≠ .opened := nofun
  exact cycleTakesCommandThenByteThenTick s _ _ _ rest (some 0x230000) (rxWord b) 1 h
    (.inr ⟨_, rfl, .inl ⟨.accAbort, rfl, habort⟩⟩) (.inr ⟨b, rfl, exec_rxByte_of_not_open hclosed b⟩)
    (.inr ⟨rfl, exec_tick_of_not_open hclosed⟩)

/-- Settles O37, by the two branches of `ACC.CLR`. -/
theorem clearDropsTheFrame : Obligations.ClearDropsTheFrame :=
  ⟨rfl, operandReserved_of_format rfl, fun _ ho => exec_of_preconditionFails (i := .accClr) ho, fun _ ho => if_neg ho⟩

/-- Settles O42: a tick in a window is counted, then tested as `accCheck_of_open` says. -/
theorem tickIsCountedInAWindow : Obligations.TickIsCountedInAWindow := by
  refine ⟨fun _ => exec_tick_of_not_open, fun s ho => ?_⟩
  rw [exec_tick_of_open ho, accCheck_of_open (s := { s with timer := s.timer + 1 }) ho]

end Sys2Proof.Machine
end

section
/-! PROOFS. The family 43_system.md: the two system commands (R160, R161). -/

namespace Sys2Proof.Machine

open Sys2Proof.Spec

/-- Settles O27: the meanings as they stand, an idle port by its own rule, and the two opcodes are of format `N`. -/
theorem systemCommandsTouchOnlyTheErrorRecord : Obligations.SystemCommandsTouchOnlyTheErrorRecord :=
  ⟨rfl, rfl, fun _ => rfl, fun _ => rfl, commandStage_none, operandReserved_of_format rfl, operandReserved_of_format rfl⟩

end Sys2Proof.Machine
end

section
/-! PROOFS. The family 60_exceptions.md: the refusals and their order (R170 to R172), and the outputs as levels of `ASTATE`
(R177, R178). -/

namespace Sys2Proof.Machine

open Sys2Proof.Spec

/-! ## The level outputs -/

theorem doneOut_iff (s : State) : doneOut s = true ↔ s.astate = .done := beq_iff_eq

theorem openOut_iff (s : State) : openOut s = true ↔ s.astate = .opened := beq_iff_eq

/-- `DONE` is reached by `ACC.START`, or from an open window by `ACC.ABORT`, a tick or a byte (R121, R124, R125). -/
theorem exec_reaches_done {i : Instr} {s t : State} (h : exec i s = .next t) (hs : s.astate ≠ .done)
    (ht : t.astate = .done) :
    i = .accStart ∨ (s.astate = .opened ∧ (i = .accAbort ∨ i = .tick ∨ ∃ b, i = .rxByte b)) := by
  cases exec_effect h
  case start => exact .inl rfl
  case clear => cases ht
  case abort ho => exact .inr ⟨ho, .inl rfl⟩
  case tick ho => exact .inr ⟨ho, .inr (.inl rfl)⟩
  case byte b ho => exact .inr ⟨ho, .inr (.inr ⟨b, rfl⟩)⟩
  all_goals exact absurd ht hs

/-! ## The order of the checks -/

/-- The opcode is checked first: an illegal one is refused as such, whatever the operand and the state (R62, R172). -/
theorem runCommand_of_opcodeIllegal {op : Byte} (h : opcodeIllegal op.toNat) (arg : Half) (s : State) :
    runCommand (cmdWord op arg) s = .next (refusedWith .illegalOpcode s) :=
  undecodableCommandIsRefused _ _ s ((everyCommandWordIsOneRowOrOneRefusal op arg).1.mpr h)

/-- The state is checked last: a legal word is refused for the state that fails its precondition (R62, R170). -/
theorem runCommand_of_preconditionFails {w : Word24} {i : Instr} {s : State} (hd : decodeCmd w = .ok i)
    (h : preconditionFails s i) : runCommand w s = .next (refusedWith .badState s) := by
  rw [runCommand_of_ok hd, exec_of_preconditionFails h]

/-- In `IDLE`, `VAL.RUN` fails its precondition (R110). -/
theorem preconditionFails_valRun_of_idle {s : State} (h : s.astate = .idle) : preconditionFails s .valRun := by
  simp [preconditionFails, h]

/-! ## The statements -/

/-- Settles O51: a closed window is frozen (`closedFrameIsFrozen`), and `exec_reaches_done` lists what closes one. -/
theorem doneOutputIsALevel : Obligations.DoneOutputIsALevel := by
  refine ⟨fun s => ⟨doneOut_iff s, openOut_iff s⟩, fun i s t h hd hs hc => ?_, fun i s t h hs ht => ?_⟩
  · have hdone : s.astate = .done := (doneOut_iff s).mp hd
    obtain ⟨-, -, -, -, hkept, -⟩ := closedFrameIsFrozen i s t hdone hs hc h
    exact (doneOut_iff t).mpr (hkept.trans hdone)
  · have hnot : s.astate ≠ .done := fun hdone => by simp [(doneOut_iff s).mpr hdone] at hs
    rw [openOut_iff]
    exact exec_reaches_done h hnot ((doneOut_iff t).mp ht)

/-- Settles O15, by the precondition's branch of each command (`exec_of_preconditionFails`). -/
theorem badStateCommandIsRefused : Obligations.BadStateCommandIsRefused := fun _ _ => exec_of_preconditionFails

/-- Settles O16: R172's words are cases of the three checks, each of which decides before the next is made. -/
theorem firstFailingCheckNamesTheError : Obligations.FirstFailingCheckNamesTheError :=
  ⟨fun s => undecodableCommandIsRefused _ _ s rfl, fun s _ => undecodableCommandIsRefused _ _ s rfl,
    fun _ h => runCommand_of_preconditionFails rfl (preconditionFails_valRun_of_idle h),
    fun _ arg s h => runCommand_of_opcodeIllegal h arg s, fun w s h => undecodableCommandIsRefused w _ s h,
    fun _ _ _ => runCommand_of_preconditionFails⟩

end Sys2Proof.Machine
end

section
/-! PROOFS. The family 70_reset_and_hazards.md: a cycle with `rst` (R200, R201). -/

namespace Sys2Proof.Machine

/-- A cycle with `rst` is the reset of the state behind it: the rest of what it presents does not occur (R200). -/
theorem step_of_pending_of_rst {s : State} {c : Cycle} {rest : List Cycle} (h : s.pending = c :: rest)
    (hr : c.rst = true) : step s = .next (resetState { s with pending := rest }) := by
  have hdrop : dropCycle s = { s with pending := rest } := by rw [dropCycle, h, List.tail_cons]
  have hrst : (nextCycle s).rst = true := by rw [nextCycle, h, List.headD_cons, hr]
  exact hdrop ▸ step_eq_next.mpr (.inl ⟨hrst, rfl⟩)

/-- Settles O12: whatever command, byte and tick stand beside it, `rst` leads to `resetState`, whose fields are R30's. -/
theorem resetOverridesTheWholeCycle : Obligations.ResetOverridesTheWholeCycle :=
  fun _ _ _ _ _ h => step_of_pending_of_rst h rfl

end Sys2Proof.Machine
end
